-- ==== Sys2Proof/Word.lean ====
section
/-! DEFINITION. The byte of 00_scope.md R9 and the spec's own enumerations. The words whose widths are parameters of R7 are
`Time` and `Len` in Machine/Params.lean. -/

namespace Sys2Proof

abbrev Byte := BitVec 8

/-- The Connection State, 10_state.md R21. -/
inductive Conn where
  | idle
  | pulsing
  | receivingFrame
  deriving DecidableEq, Repr

/-- The two colours of the monochrome panel (40_common_ops.md R119, 42_pulsing.md R142). PRESUMED, log entry 11. -/
inductive Color where
  | white
  | black
  deriving DecidableEq, Repr, Inhabited

/-- The five status lines of 30_encoding.md R90. -/
inductive Status where
  | ok
  | ready
  | errLen
  | errTimeout
  | done
  deriving DecidableEq, Repr

/-- The two exceptions that some rule raises, 60_exceptions.md R160. -/
inductive Exc where
  | lengthError
  | payloadTimeout
  deriving DecidableEq, Repr

end Sys2Proof
end

