-- ==== Sys2Proof/Machine/Bytes.lean ====
section
/-! DEFINITION. A 32-bit value and its four bytes in stream order (00_scope.md R9, 20_memory.md R52). -/

namespace Sys2Proof

/-- `be32` of 00_scope.md R9: four bytes, the first most significant (R52). Its value is R9's sum, `be32_toNat` in
Laws/Decode.lean. -/
def be32 (b0 b1 b2 b3 : Byte) : BitVec 32 := b0 ++ b1 ++ b2 ++ b3

/-- The first byte on the wire of a 32-bit value, its bits 31:24 (30_encoding.md R82). -/
def topByte (L : BitVec 32) : Byte := L.extractLsb' 24 8

/-- The four bytes of a 32-bit value in stream order (R82). -/
def beBytes (L : BitVec 32) : List Byte :=
  [topByte L, L.extractLsb' 16 8, L.extractLsb' 8 8, L.extractLsb' 0 8]

end Sys2Proof
end

