-- ==== Sys2Proof/Config.lean ====
section
/-! DEFINITION. What an implementation fixes (00_scope.md R7, D26) and the free values, which have no body. -/

namespace Sys2Proof

/-- The parameters of R7 that have a value. This hardware's values are `hw` in Machine/Params.lean. -/
structure Config where
  /-- `C`, the capacity of the Frame Buffer in bytes. -/
  capacity : Nat
  /-- `CMD_TOKEN`. -/
  cmdToken : List Byte
  /-- `CMD_LEN`. -/
  cmdLen : Nat
  /-- `CMD_FIRST`. -/
  cmdFirst : Byte
  /-- `HDR_LEN`. -/
  hdrLen : Nat
  /-- `PAYLOAD_TIMEOUT_MS`. -/
  payloadTimeoutMs : Nat
  /-- `HDR_TIMEOUT_MS`: recorded, read by no rule (60_exceptions.md R164, 90_conflicts.md C1). -/
  hdrTimeoutMs : Nat
  /-- `PULSE_INTERVAL_MS`: timing only, read by no rule (42_pulsing.md R142). -/
  pulseIntervalMs : Nat
  /-- `BLIT_X`. -/
  blitX : Nat
  /-- `BLIT_Y`. -/
  blitY : Nat
  /-- `BLIT_FG`. -/
  blitFg : Color
  /-- `NL`, the terminator of a status line (30_encoding.md R91). -/
  nl : List Byte
  /-- `TIME_W`, the width in bits of `now` and `activity_ts`. -/
  timeW : Nat
  /-- `LEN_W`, the width in bits of `expected_len` and `received_cnt`. -/
  lenW : Nat
  /-- `LOOKAHEAD`: how many leading bytes of the input queue can be inspected. -/
  lookahead : Nat
  deriving DecidableEq, Repr

/-- `PANEL_W` and `PANEL_H` before R8's constraint is imposed: OPEN in R7, so a free value. Log entry 12. -/
opaque Config.panelRaw : Nat × Nat

/-- `PULSE_COLOR`, index false for 0 and true for 1: OPEN in R7 (D12), so a free value. Log entry 11. -/
opaque Config.pulseColor : Bool → Color

/-- How far `RX_DEPTH` exceeds the five bytes of 70_reset_and_hazards.md R203: OPEN in R7. Log entry 25. -/
opaque Config.rxDepthExtra : Nat

/-- `STEP_INTERVAL`: OPEN in R7, read by no rule (70_reset_and_hazards.md R194). Log entry 35. -/
opaque Config.stepInterval : Nat

/-- What `pulse_toggle` holds after the k-th power-on: unspecified (10_state.md R26, R38). Log entry 1. -/
opaque Config.bootToggle : Nat → Bool

/-- What `activity_ts`, `w` bits wide, holds after the k-th power-on: unspecified (10_state.md R25, R38). Log entry 2. -/
opaque Config.bootActivityTs (w : Nat) : Nat → BitVec w

/-- What the Display Surface reads in its k-th call at an index beyond the frame: unspecified
(40_common_ops.md R119, D20). Log entry 14. -/
opaque Config.staleByte : Nat → Nat → Byte

end Sys2Proof
end

