-- ==== Sys2Proof/Machine/Params.lean ====
section
/-! DEFINITION. The values this hardware gives the parameters of 00_scope.md R7, and the word types whose widths they are. -/

namespace Sys2Proof

/-- The parameters of R7 with this hardware's values. Log entries 10 and 13. -/
def hw : Config where
  capacity := 12480
  cmdToken := [0x50, 0x55, 0x4C, 0x53, 0x45]
  cmdLen := 5
  cmdFirst := 0x50
  hdrLen := 4
  payloadTimeoutMs := 2000
  hdrTimeoutMs := 500
  pulseIntervalMs := 50
  blitX := 0
  blitY := 0
  blitFg := .black
  nl := [0x0A]
  timeW := 32
  lenW := 14
  lookahead := 5

/-- What `now` and `activity_ts` hold. -/
abbrev Time := BitVec hw.timeW

/-- What `expected_len` and `received_cnt` hold. -/
abbrev Len := BitVec hw.lenW

/-- Bytes in one row of a packed bitmap `w` pixels wide (20_memory.md R54). -/
def rowStride (w : Nat) : Nat := (w + 7) / 8

/-- The panel's native width and height: any pair with R8's `ceil(PANEL_W / 8) * PANEL_H <= C`. Log entry 12. -/
def panelSize : Nat × Nat :=
  if rowStride Config.panelRaw.1 * Config.panelRaw.2 ≤ hw.capacity then Config.panelRaw else (0, 0)

/-- `PANEL_W`. -/
def panelW : Nat := panelSize.1

/-- `PANEL_H`. -/
def panelH : Nat := panelSize.2

/-- `RX_DEPTH`: at least the five bytes of a command token (70_reset_and_hazards.md R203); read by no rule. -/
def rxDepth : Nat := hw.cmdLen + Config.rxDepthExtra

end Sys2Proof
end

