-- ==== Sys2Proof/Syntax.lean ====
section
/-! DEFINITION. The instruction set: one constructor per row of spec/opcode_table.json (30_encoding.md R92). -/

namespace Sys2Proof

/-- A token of the input stream, an operation that no token selects, or a status line of the output stream. -/
inductive Instr where
  /-- `PULSE`: the command token in Idle (R81, R130). -/
  | pulse
  /-- `PULSE.P`: the command token in Pulsing (R81, R140). -/
  | pulseP
  /-- `FRAME`: a length header with 1 <= L <= C (R82, R87, R115). -/
  | frame (L : BitVec 32)
  /-- `FRAME.ZERO`: a length header with L = 0 (R87, R116). -/
  | frameZero
  /-- `FRAME.BIG`: a length header with L > C (R87, R116). -/
  | frameBig (L : BitVec 32)
  /-- `DATA`: a payload byte (R83, R150). -/
  | data (d : Byte)
  /-- `STALL.P`: a head byte 0x50 whose next four bytes x, first byte most significant, are not `ULSE` (R88). -/
  | stallP (x : BitVec 32)
  /-- `IDLE.WAIT` (R133). -/
  | idleWait
  /-- `PULSE.CYCLE` (R142). -/
  | pulseCycle
  /-- `FRAME.COMPLETE` (R151). -/
  | frameComplete
  /-- `FRAME.TIMEOUT` (R152). -/
  | frameTimeout
  /-- `RECV.WAIT` (R153). -/
  | recvWait
  /-- The status line `OK` (R90). -/
  | ok
  /-- The status line `READY` (R90). -/
  | ready
  /-- The status line `ERR_LEN` (R90). -/
  | errLen
  /-- The status line `ERR_TIMEOUT` (R90). -/
  | errTimeout
  /-- The status line `DONE` (R90). -/
  | done
  deriving DecidableEq, Repr

end Sys2Proof
end

