-- ==== Sys2Proof/WellFormed.lean ====
section
/-! DEFINITION. Which instruction terms an encoding of 30_encoding.md stands for, and where each is decoded. -/

namespace Sys2Proof

/-- The classes of a length, 30_encoding.md R87, compared as a full 32-bit unsigned value. -/
def lengthValid (L : BitVec 32) : Bool := decide (1 ≤ L.toNat) && decide (L.toNat ≤ hw.capacity)

/-- The operand constraints of the opcode table. -/
def WellFormed : Instr → Bool
  | .frame L => lengthValid L
  | .frameBig L => decide (hw.capacity < L.toNat) && topByte L != hw.cmdFirst
  | .stallP x => hw.cmdFirst :: beBytes x != hw.cmdToken
  | .pulse | .pulseP | .frameZero | .data _ | .idleWait | .pulseCycle | .frameComplete
  | .frameTimeout | .recvWait | .ok | .ready | .errLen | .errTimeout | .done => true

/-- The opcode table's "decoded_in" for the rows that the host sends: the Connection State acts as the
decoder's mode bit (R84). False for the rows that no token of the input stream selects. -/
def decodedIn : Instr → Conn → Bool
  | .pulse, c => c == .idle
  | .pulseP, c => c == .pulsing
  | .frame _, c | .frameZero, c | .frameBig _, c | .stallP _, c => c == .idle || c == .pulsing
  | .data _, c => c == .receivingFrame
  | .idleWait, _ | .pulseCycle, _ | .frameComplete, _ | .frameTimeout, _ | .recvWait, _
  | .ok, _ | .ready, _ | .errLen, _ | .errTimeout, _ | .done, _ => false

end Sys2Proof
end

