-- ==== Sys2Proof/Decode.lean ====
section
/-! DEFINITION. The decoder of the input stream, the encoder, the status lines and the opcode table's words
(30_encoding.md). -/

namespace Sys2Proof

/-! ### The decode predicates of R85 -/

/-- `rx_peek[k]` of 00_scope.md R10: defined only for `k < rx_avail` and `k < LOOKAHEAD`. -/
def rxPeek (q : List Byte) (k : Nat) : Option Byte := if k < hw.lookahead then q[k]? else none

/-- `CmdMatch`: a `CMD5` token is present. -/
def cmdMatch (q : List Byte) : Bool :=
  decide (hw.cmdLen ≤ q.length) && q.take hw.cmdLen == hw.cmdToken

/-- `HdrReady`: a `HDR4` token is present. -/
def hdrReady (q : List Byte) : Bool :=
  decide (hw.hdrLen ≤ q.length) && rxPeek q 0 != some hw.cmdFirst

/-- The stalled row of R85 (R88): neither a command nor a header, never consumed. -/
def stalled (q : List Byte) : Bool :=
  decide (hw.cmdLen ≤ q.length) && rxPeek q 0 == some hw.cmdFirst && !cmdMatch q

/-- The length that the first four bytes of the queue give, where they are there (R52). -/
def headerLength : List Byte → Option (BitVec 32)
  | b0 :: b1 :: b2 :: b3 :: _ => some (be32 b0 b1 b2 b3)
  | _ => none

/-- The four bytes after a stalled head byte, as one 32-bit value (opcode table, `STALL.P`). -/
def stallTail : List Byte → Option (BitVec 32)
  | _ :: q => headerLength q
  | [] => none

/-! ### The decoder -/

/-- Why no instruction can be read from the queue yet: the pending rows of R85, by name. -/
inductive Pending where
  /-- Nothing to decode. -/
  | empty
  /-- One to three bytes, the first not 0x50. -/
  | headerFragment
  /-- One to four bytes, the first 0x50: possibly the start of `PULSE`. -/
  | commandFragment
  deriving DecidableEq, Repr

/-- The instruction a length header stands for, by the three classes of R87. -/
def headerInstr (L : BitVec 32) : Instr :=
  if L.toNat = 0 then .frameZero else if hw.capacity < L.toNat then .frameBig L else .frame L

/-- Which pending row of R85 a queue that holds no token is in. -/
def pendingReason (q : List Byte) : Pending :=
  match q with
  | [] => .empty
  | h :: _ => if h == hw.cmdFirst then .commandFragment else .headerFragment

/-- Decoding in Idle and in Pulsing, the rows of R85 in the source's order; `cmd` is what the command token means there. -/
def decodeToken (cmd : Instr) (q : List Byte) : Except Pending Instr :=
  if cmdMatch q then .ok cmd
  else if hdrReady q then
    match headerLength q with
    | some L => .ok (headerInstr L)
    | none => .error (pendingReason q)
  else if stalled q then
    match stallTail q with
    | some x => .ok (.stallP x)
    | none => .error (pendingReason q)
  else .error (pendingReason q)

/-- The decoder: total on any bytes, its mode the Connection State (R84). -/
def decode (c : Conn) (q : List Byte) : Except Pending Instr :=
  match c with
  | .idle => decodeToken .pulse q
  | .pulsing => decodeToken .pulseP q
  | .receivingFrame =>
    match q with
    | [] => .error .empty
    | d :: _ => .ok (.data d)

/-- What a step of Idle or Pulsing runs (41_idle.md R129, 42_pulsing.md R139): the token at the head of the queue, or,
where there is none, the operation that the Connection State selects. For ReceivingFrame, where a step drains first, this is
the next payload byte or the wait of a step that finds none. -/
def select (c : Conn) (q : List Byte) : Instr :=
  match decode c q with
  | .ok i => i
  | .error _ =>
    match c with
    | .idle => .idleWait
    | .pulsing => .pulseCycle
    | .receivingFrame => .recvWait

/-! ### Status lines -/

/-- The ASCII text of a status line, without its terminator (R90). -/
def statusText : Status → List Byte
  | .ok => [0x4F, 0x4B]
  | .ready => [0x52, 0x45, 0x41, 0x44, 0x59]
  | .errLen => [0x45, 0x52, 0x52, 0x5F, 0x4C, 0x45, 0x4E]
  | .errTimeout => [0x45, 0x52, 0x52, 0x5F, 0x54, 0x49, 0x4D, 0x45, 0x4F, 0x55, 0x54]
  | .done => [0x44, 0x4F, 0x4E, 0x45]

/-- A whole status line: the text followed by `NL` (R90, R91). -/
def statusLine (st : Status) : List Byte := statusText st ++ hw.nl

/-- The instruction that writes a status line. -/
def statusInstr : Status → Instr
  | .ok => .ok
  | .ready => .ready
  | .errLen => .errLen
  | .errTimeout => .errTimeout
  | .done => .done

/-- The status that a whole line stands for, read as the host reads the output stream. -/
def decodeStatus (q : List Byte) : Option Status :=
  [Status.ok, .ready, .errLen, .errTimeout, .done].find? fun st => q == statusLine st

/-! ### The encoder -/

/-- The bytes of an instruction in stream order: what the host sends for a token, what the block writes for a status line,
none for an operation that no token selects. -/
def encode : Instr → List Byte
  | .pulse | .pulseP => hw.cmdToken
  | .frame L | .frameBig L => beBytes L
  | .frameZero => beBytes 0
  | .data d => [d]
  | .stallP x => hw.cmdFirst :: beBytes x
  | .idleWait | .pulseCycle | .frameComplete | .frameTimeout | .recvWait => []
  | .ok => statusLine .ok
  | .ready => statusLine .ready
  | .errLen => statusLine .errLen
  | .errTimeout => statusLine .errTimeout
  | .done => statusLine .done

/-! ### The opcode table's words -/

/-- `n` bytes of a number, the most significant first: the table's "offset 0 is the most significant byte". -/
def wordBytes : Nat → Nat → List Byte
  | 0, _ => []
  | n + 1, w => BitVec.ofNat 8 (w / 256 ^ n) :: wordBytes n w

/-- The bytes of a table word of `nbits` bits. -/
def tableBytes (nbits w : Nat) : List Byte := wordBytes ((nbits + 7) / 8) w

/-- The instruction that a word of the opcode table stands for. A word is one whole token or line, its bit 0 the least significant
bit of its last byte on the wire. A whole status line is that line (the output stream's decoder), one byte is a payload
byte (the decoder in ReceivingFrame), no byte is what Idle does with an empty queue, any other word is decoded as in Idle.
Log entry 8. -/
def decodeTableWord (nbits w : Nat) : Option Instr :=
  let q := tableBytes nbits w
  match decodeStatus q with
  | some st => some (statusInstr st)
  | none =>
    match q with
    | [] => some (select .idle [])
    | [_] => (decode .receivingFrame q).toOption
    | _ => (decode .idle q).toOption

end Sys2Proof
end

