-- ==== Sys2Proof/Machine/State.lean ====
section
/-! DEFINITION. The state of the block and of the environment it observes (10_state.md), as plain data, its reset value, and
the reasons a step can stop. -/

namespace Sys2Proof.Machine

/-- The calls of the Display Surface contract (60_exceptions.md R174), with the answer of `isMoreToRender()`. -/
inductive DsCall where
  /-- In the contract; no rule calls it (90_conflicts.md C4). -/
  | setWindow (x y w h : Nat)
  | setFullWindow
  | beginFrame
  | isMoreToRender (answer : Bool)
  | fill (color : Color)
  /-- `frame` is `fb[0..expected_len-1]`, the bytes of the buffer that the call is about (40_common_ops.md R119). -/
  | drawInvertedBitmap (x y : Nat) (frame : List Byte) (w h : Nat) (foreground : Color)
  | powerOff
  deriving DecidableEq, Repr

/-- One move of the environment: the directives of 30_encoding.md R93, and the reset event of 70_reset_and_hazards.md R190. -/
inductive Move where
  /-- `SEND`: the host's bytes are appended to the input queue. -/
  | send (bytes : List Byte)
  /-- `PULSE`: the host sends the command token. -/
  | pulse
  /-- `HDR n`: the host sends the header of length n. -/
  | hdr (n : BitVec 32)
  /-- `ADV ms`: time passes. -/
  | adv (ms : Nat)
  /-- `STEP`: the runtime invokes one step. -/
  | step
  /-- The reset event: start-up. -/
  | powerOn
  deriving DecidableEq, Repr

/-- The Frame Buffer's contents: the indices that hold a value, rising, each with its byte (log entry 3). -/
abbrev Memory := List Host.Cell

structure State where
  /-- `state`, the Connection State (R21). -/
  conn : Conn
  /-- `expected_len` (R23). -/
  expectedLen : Len
  /-- `received_cnt` (R24). -/
  receivedCnt : Len
  /-- `fb` (R27). -/
  fb : Memory
  /-- `pulse_toggle` (R26). -/
  pulseToggle : Bool
  /-- `activity_ts` (R25). -/
  activityTs : Time
  /-- `rxq`, oldest byte first (R28). -/
  rxq : List Byte
  /-- `txlog` (R29). -/
  txlog : List Byte
  /-- `now` (R30). -/
  now : Time
  /-- `dslog` (R31). -/
  dslog : List DsCall
  /-- The Display Surface's next answers to `isMoreToRender()` (R31, R36). Log entry 5. -/
  moreAnswers : List Bool
  /-- Every answer after those of `moreAnswers`. Log entry 5. -/
  moreRest : Bool
  /-- How many times the block has started up: the index of the next free reset values. Log entry 28. -/
  boots : Nat
  /-- The environment's moves still to come (R6, R93). Log entry 7. -/
  pending : List Move
  deriving DecidableEq, Repr

/-- Why a step stops with a fault. All of them are safe: the model goes no further where the spec gives no next state. -/
inductive Fault where
  /-- Raised by a render call whose `isMoreToRender()` never answers false: the step never ends, a hang the model keeps
  (40_common_ops.md R117, U14). Safe. -/
  | renderHang
  /-- Raised by `RxPopN` when the queue holds too few bytes, which every caller rules out (40_common_ops.md R111, U19). Safe. -/
  | rxUnderrun
  /-- Raised by a write of the Frame Buffer at an index >= C, which no step makes (20_memory.md R60). Safe. -/
  | fbOutOfBounds
  /-- Raised by a read of a Frame Buffer byte that holds no value (10_state.md R27, U2). Safe. -/
  | fbNoValue
  /-- Raised by `RenderFrame` when the frame is not complete: the read gate (20_memory.md R62). Safe. -/
  | renderGate
  /-- Raised by every meaning of an operation in a state in which its condition in the opcode table does not hold, where the
  block never runs it (30_encoding.md R85, 40_common_ops.md R122). Safe. Log entry 9. -/
  | notSelected
  deriving DecidableEq, Repr

/-- Why a step is refused. -/
inductive Refusal where
  /-- An instruction that has no meaning in this model, by its mnemonic in the opcode table. Safe. No arm raises it now. -/
  | notModelled (mnemonic : String)
  deriving DecidableEq, Repr

/-- The machine right after the first start-up (R38, R191, R192). Log entries 1 to 5, 7 and 28 name the fields for which the
spec states no value. -/
def State.reset : State where
  conn := .idle
  expectedLen := 0
  receivedCnt := 0
  fb := []
  pulseToggle := Config.bootToggle 0
  activityTs := Config.bootActivityTs hw.timeW 0
  rxq := []
  txlog := []
  now := 0
  dslog := []
  moreAnswers := []
  moreRest := false
  boots := 1
  pending := []

end Sys2Proof.Machine
end

