-- ==== Sys2Proof/Machine/Operands.lean ====
section
/-! DEFINITION. What the operations compute from the registers and the queue before they act: the arithmetic of
40_common_ops.md R120 and the conditions of the opcode table. -/

namespace Sys2Proof.Machine

/-- `rx_avail` (00_scope.md R10). -/
def rxAvail (s : State) : Nat := s.rxq.length

/-- The step's time `t`: the value of `now`, which does not change within a step (00_scope.md R11, D5). -/
def stepTime (s : State) : Time := s.now

/-- Elapsed milliseconds modulo 2^`TIME_W`, `t -_32 activity_ts` (R9, R120). -/
def elapsed (t activity : Time) : Time := t - activity

/-- The timeout test, strict (R120). -/
def timedOut (s : State) : Bool := decide (hw.payloadTimeoutMs < (elapsed (stepTime s) s.activityTs).toNat)

/-- `expected_len - received_cnt`: how many bytes the frame still needs (R120). -/
def remaining (s : State) : Nat := s.expectedLen.toNat - s.receivedCnt.toNat

/-- `min(rx_avail, expected_len - received_cnt)`: how many bytes a drain takes (R150). -/
def drainCount (s : State) : Nat := min (rxAvail s) (remaining s)

/-- The frame still lacks a byte: `received_cnt < expected_len`. -/
def frameOpen (s : State) : Bool := decide (s.receivedCnt.toNat < s.expectedLen.toNat)

/-- The completion test `received_cnt == expected_len` (R149). -/
def frameFull (s : State) : Bool := s.receivedCnt == s.expectedLen

/-- The Connection States that decode tokens (30_encoding.md R84). -/
def decodesTokens (s : State) : Bool := s.conn == .idle || s.conn == .pulsing

/-- Neither `CmdMatch` nor `HdrReady` holds. -/
def noToken (s : State) : Bool := !cmdMatch s.rxq && !hdrReady s.rxq

/-- A `HDR4` token and no `CMD5` token is at the head of the queue, and its length is L (R112). -/
def headerIs (L : BitVec 32) (s : State) : Bool :=
  !cmdMatch s.rxq && hdrReady s.rxq && headerLength s.rxq == some L

/-- The stalled row of R85, the four bytes after the head being x. -/
def stalledWith (x : BitVec 32) (s : State) : Bool :=
  !hdrReady s.rxq && stalled s.rxq && stallTail s.rxq == some x

/-- The binary encoding of the Connection State, where one is wanted (10_state.md R21, D16). -/
def connCode : Conn → BitVec 2
  | .idle => 0
  | .pulsing => 1
  | .receivingFrame => 2

end Sys2Proof.Machine
end

