-- ==== Sys2Proof/Machine/Ops.lean ====
section
/-! DEFINITION. The named operations over the registers, the Frame Buffer, the two streams and the Display Surface
(00_scope.md R10, 40_common_ops.md), and the one operation that takes an exception (60_exceptions.md R169). -/

namespace Sys2Proof.Machine

/-- The outcome of an operation. -/
abbrev Out := Host.Outcome State Fault Refusal

/-- Go on with the state that an operation left, unless it stopped. -/
def andThen (o : Out) (k : State → Out) : Out :=
  match o with
  | .next s => k s
  | .fault r => .fault r
  | .refused r => .refused r

/-- Run an operation where its condition in the opcode table holds. Log entry 9. -/
def whenSelected (cond : Bool) (o : Out) : Out := if cond then o else .fault .notSelected

/-! ### Register writes, `r <- v` -/

def setConn (c : Conn) (s : State) : State := { s with conn := c }
def setExpectedLen (n : Len) (s : State) : State := { s with expectedLen := n }
def setReceivedCnt (n : Len) (s : State) : State := { s with receivedCnt := n }
def setPulseToggle (b : Bool) (s : State) : State := { s with pulseToggle := b }
def setActivityTs (t : Time) (s : State) : State := { s with activityTs := t }
def setFb (m : Memory) (s : State) : State := { s with fb := m }
def setRxq (q : List Byte) (s : State) : State := { s with rxq := q }
def setMoreAnswers (as : List Bool) (s : State) : State := { s with moreAnswers := as }

/-- `expected_len <- 0`, `received_cnt <- 0`. -/
def clearCounters (s : State) : State := setReceivedCnt 0 (setExpectedLen 0 s)

/-! ### The Frame Buffer -/

/-- The byte that an index holds; an index that no rule has written holds none (10_state.md R27). Log entry 3. -/
def Memory.read (m : Memory) (i : Nat) : Option Byte :=
  match m with
  | [] => none
  | (a, b) :: rest => if a = i then some b else Memory.read rest i

/-- The memory with one byte written, its indices still rising. -/
def Memory.write (m : Memory) (i : Nat) (b : Byte) : Memory :=
  match m with
  | [] => [(i, b)]
  | (a, c) :: rest =>
    if i < a then (i, b) :: (a, c) :: rest
    else if i = a then (i, b) :: rest
    else (a, c) :: Memory.write rest i b

/-- The canonical form: strictly rising indices. An unlisted index reads as no value, so no entry can equal that. -/
def Memory.wf (m : Memory) : Bool :=
  match m with
  | [] => true
  | (a, _) :: rest => rest.all (fun c => decide (a < c.1)) && Memory.wf rest

/-- `n` bytes from index `i`, or none if one of them holds no value. -/
def Memory.readRange (m : Memory) (i n : Nat) : Option (List Byte) :=
  match n with
  | 0 => some []
  | k + 1 =>
    match Memory.read m i, Memory.readRange m (i + 1) k with
    | some b, some bs => some (b :: bs)
    | _, _ => none

/-- `MemWrite(i, 1, b)`: requires `i < C` (R10, 20_memory.md R60). -/
def memWrite (i : Nat) (b : Byte) (s : State) : Out :=
  if i < hw.capacity then .next (setFb (Memory.write s.fb i b) s) else .fault .fbOutOfBounds

/-! ### The two streams -/

/-- `RxPopN(n)`: consume n bytes, which the decoder has read (R111). -/
def rxPopN (n : Nat) (s : State) : Out :=
  if n ≤ rxAvail s then .next (setRxq (s.rxq.drop n) s) else .fault .rxUnderrun

/-- `TxWrite(bytes)`: append to the output log, never blocks, never fails (10_state.md R29). -/
def txWrite (bytes : List Byte) (s : State) : State := { s with txlog := s.txlog ++ bytes }

/-- `EmitStatus(S)` (R113). -/
def emitStatus (st : Status) (s : State) : State := txWrite (statusLine st) s

/-- `FlushInput()`: throw away every byte of the queue (R114). -/
def flushInput (s : State) : State := setRxq [] s

/-! ### Taking an exception -/

/-- The code of an exception: the status line the host sees (60_exceptions.md R160). -/
def excStatus : Exc → Status
  | .lengthError => .errLen
  | .payloadTimeout => .errTimeout

/-- `raise E`: the recovery sequence, the same four things in the same order for both exceptions (60_exceptions.md R161, R162,
R169). Nothing is saved, and there is no return operation: what follows is an ordinary step of Idle (R170). -/
def takeException (e : Exc) (s : State) : State :=
  setConn .idle (clearCounters (flushInput (emitStatus (excStatus e) s)))

/-! ### The Display Surface -/

/-- `DS.f(args)`: append calls to the log. -/
def dsCalls (cs : List DsCall) (s : State) : State := { s with dslog := s.dslog ++ cs }

/-- The paged loop of R117: `repeat body until isMoreToRender() == false`, taking the answers in order, each after those of the
list being `rest`. The calls made and the answers left, or none if the loop never ends. -/
def pageLoop (body : List DsCall) (rest : Bool) (answers : List Bool) : Option (List DsCall × List Bool) :=
  match answers with
  | [] => if rest then none else some (body ++ [.isMoreToRender false], [])
  | a :: as =>
    if a then
      match pageLoop body rest as with
      | none => none
      | some (cs, left) => some (body ++ .isMoreToRender true :: cs, left)
    else some (body ++ [.isMoreToRender false], as)

/-- `Render(body)` (R117). -/
def render (body : List DsCall) (s : State) : Out :=
  match pageLoop body s.moreRest s.moreAnswers with
  | none => .fault .renderHang
  | some (cs, left) =>
    .next (setMoreAnswers left (dsCalls ([.setFullWindow, .beginFrame] ++ cs ++ [.powerOff]) s))

/-- `RenderFill(colour)` (R118). -/
def renderFill (color : Color) (s : State) : Out := render [.fill color] s

/-- What one page of a frame draws: white, then the frame at the panel's native size (R119). -/
def frameBody (frame : List Byte) : List DsCall :=
  [.fill .white, .drawInvertedBitmap hw.blitX hw.blitY frame panelW panelH hw.blitFg]

/-- `RenderFrame()`: only when the frame is complete (20_memory.md R62), of the frame's own bytes (R119). -/
def renderFrame (s : State) : Out :=
  if frameFull s then
    match Memory.readRange s.fb 0 s.expectedLen.toNat with
    | none => .fault .fbNoValue
    | some frame => render (frameBody frame) s
  else .fault .renderGate

/-! ### The two outcomes of a header -/

/-- `HeaderAccept(L, t)` (R115). The write of `activity_ts` is decision D6. -/
def headerAccept (L : BitVec 32) (t : Time) (s : State) : State :=
  setConn .receivingFrame (setActivityTs t (setReceivedCnt 0 (setExpectedLen (L.setWidth hw.lenW) (emitStatus .ready s))))

/-- `HeaderReject(L)` (R116). -/
def headerReject (s : State) : State := takeException .lengthError s

/-- `InterpretHeader(t)` for a header of length L: consume the four bytes whatever L is, then accept or reject it (R112). -/
def interpretHeader (L : BitVec 32) (s : State) : Out :=
  andThen (rxPopN hw.hdrLen s) fun s1 =>
    if L.toNat = 0 || decide (hw.capacity < L.toNat) then .next (headerReject s1)
    else .next (headerAccept L (stepTime s) s1)

/-! ### The reset event -/

/-- Start-up (10_state.md R38, 70_reset_and_hazards.md R190): the block's own registers at their reset values, the queue, the
clock and both logs as they were. Log entry 28. -/
def powerOn (s : State) : State :=
  { s with
    conn := .idle
    expectedLen := 0
    receivedCnt := 0
    fb := []
    pulseToggle := Config.bootToggle s.boots
    activityTs := Config.bootActivityTs hw.timeW s.boots
    boots := s.boots + 1 }

end Sys2Proof.Machine
end

