-- ==== Sys2Proof/Machine/Flags.lean ====
section
/-! DEFINITION. The block's one flag, the Pulse Toggle (10_state.md R26), and the pulse cycle that reads and writes it. -/

namespace Sys2Proof.Machine

/-- The colour the next pulse cycle draws, `PULSE_COLOR[pulse_toggle]` (R142). -/
def pulseColorOf (s : State) : Color := Config.pulseColor s.pulseToggle

/-- `pulse_toggle <- not pulse_toggle`. -/
def flipToggle (s : State) : State := setPulseToggle (!s.pulseToggle) s

/-- `PulseCycle()`: fill with the toggle's colour, then invert the toggle (42_pulsing.md R142). -/
def pulseCycle (s : State) : Out := andThen (renderFill (pulseColorOf s) s) fun s => .next (flipToggle s)

end Sys2Proof.Machine
end

