-- ==== Sys2Proof/Machine/Commands.lean ====
section
/-! DEFINITION. The meanings of the rows of format `CMD5`: the command token and the stalled head byte. -/

namespace Sys2Proof.Machine

/-- `PULSE`: `PulseAccept()` (41_idle.md R130). -/
def execPulse (s : State) : Out :=
  whenSelected (s.conn == .idle && cmdMatch s.rxq) <|
    andThen (rxPopN hw.cmdLen s) fun s => .next (setConn .pulsing (emitStatus .ok s))

/-- `PULSE.P`: `PulseRepeat()` (42_pulsing.md R140, D9). -/
def execPulseP (s : State) : Out :=
  whenSelected (s.conn == .pulsing && cmdMatch s.rxq) <|
    andThen (rxPopN hw.cmdLen s) fun s => .next (emitStatus .ok s)

/-- `STALL.P`: no byte is consumed and nothing is emitted (30_encoding.md R88); in Idle the step does nothing (41_idle.md R133),
in Pulsing it draws a pulse cycle (42_pulsing.md R142). Log entry 26. -/
def execStallP (x : BitVec 32) (s : State) : Out :=
  whenSelected (decodesTokens s && stalledWith x s) <|
    if s.conn == .pulsing then pulseCycle s else .next s

end Sys2Proof.Machine
end

