-- ==== Sys2Proof/Machine/Headers.lean ====
section
/-! DEFINITION. The meanings of the rows of format `HDR4`: the length header, accepted and rejected (40_common_ops.md R112). -/

namespace Sys2Proof.Machine

/-- `FRAME`: a header with 1 <= L <= C is accepted (R115). -/
def execFrame (L : BitVec 32) (s : State) : Out :=
  whenSelected (decodesTokens s && headerIs L s && lengthValid L) (interpretHeader L s)

/-- `FRAME.ZERO`: a header with L = 0 is rejected (R116). -/
def execFrameZero (s : State) : Out :=
  whenSelected (decodesTokens s && headerIs 0 s) (interpretHeader 0 s)

/-- `FRAME.BIG`: a header with L > C is rejected (R116). -/
def execFrameBig (L : BitVec 32) (s : State) : Out :=
  whenSelected (decodesTokens s && headerIs L s && decide (hw.capacity < L.toNat)) (interpretHeader L s)

end Sys2Proof.Machine
end

