-- ==== Sys2Proof/Machine/Payload.lean ====
section
/-! DEFINITION. The meanings of the operations of ReceivingFrame (43_receiving.md). -/

namespace Sys2Proof.Machine

/-- `DATA`: one turn of the drain, the block's only store (R150). -/
def execData (d : Byte) (s : State) : Out :=
  whenSelected (s.conn == .receivingFrame && frameOpen s && s.rxq.head? == some d) <|
    andThen (rxPopN 1 s) fun s =>
    andThen (memWrite s.receivedCnt.toNat d s) fun s =>
      .next (setActivityTs (stepTime s) (setReceivedCnt (s.receivedCnt + 1) s))

/-- `FRAME.COMPLETE`: `FrameComplete()` (R151). -/
def execFrameComplete (s : State) : Out :=
  whenSelected (s.conn == .receivingFrame && frameFull s) <|
    andThen (renderFrame s) fun s => .next (setConn .idle (clearCounters (emitStatus .done s)))

/-- `FRAME.TIMEOUT`: `raise PayloadTimeout` (R152, 60_exceptions.md R162). -/
def execFrameTimeout (s : State) : Out :=
  whenSelected (s.conn == .receivingFrame && frameOpen s && timedOut s) (.next (takeException .payloadTimeout s))

/-- `RECV.WAIT`: nothing more than the drain (R153). -/
def execRecvWait (s : State) : Out :=
  whenSelected (s.conn == .receivingFrame && frameOpen s && !timedOut s) (.next s)

end Sys2Proof.Machine
end

