-- ==== Sys2Proof/Machine/StatusLines.lean ====
section
/-! DEFINITION. The meanings of the rows of format `STATUS`: each writes its line (40_common_ops.md R113, 30_encoding.md R90).
The operations that emit a line call the same `emitStatus`. Log entry 27. -/

namespace Sys2Proof.Machine

/-- `OK`: "Pulse command accepted" (R90). -/
def execOk (s : State) : Out := .next (emitStatus .ok s)

/-- `READY`: "Valid length header accepted, ready for payload" (R90). -/
def execReady (s : State) : Out := .next (emitStatus .ready s)

/-- `ERR_LEN`: "Length is 0 or exceeds capacity" (R90). -/
def execErrLen (s : State) : Out := .next (emitStatus .errLen s)

/-- `ERR_TIMEOUT`: "Payload inactivity exceeded 2000 ms" (R90). -/
def execErrTimeout (s : State) : Out := .next (emitStatus .errTimeout s)

/-- `DONE`: "Frame fully received and rendered" (R90). -/
def execDone (s : State) : Out := .next (emitStatus .done s)

end Sys2Proof.Machine
end

