-- ==== Sys2Proof/Machine/Waits.lean ====
section
/-! DEFINITION. The meanings of the operations that Idle and Pulsing run when the queue holds no token. -/

namespace Sys2Proof.Machine

/-- `IDLE.WAIT`: nothing (41_idle.md R133). -/
def execIdleWait (s : State) : Out := whenSelected (s.conn == .idle && noToken s) (.next s)

/-- `PULSE.CYCLE` (42_pulsing.md R142). -/
def execPulseCycle (s : State) : Out := whenSelected (s.conn == .pulsing && noToken s) (pulseCycle s)

end Sys2Proof.Machine
end

