-- ==== Sys2Proof/Machine/Dispatch.lean ====
section
/-! DEFINITION. One arm per constructor of Instr. -/

namespace Sys2Proof.Machine

def exec (i : Instr) (s : State) : Host.Outcome State Fault Refusal :=
  match i with
  | .pulse => Sys2Proof.Machine.execPulse s
  | .pulseP => Sys2Proof.Machine.execPulseP s
  | .frame L => Sys2Proof.Machine.execFrame L s
  | .frameZero => Sys2Proof.Machine.execFrameZero s
  | .frameBig L => Sys2Proof.Machine.execFrameBig L s
  | .data d => Sys2Proof.Machine.execData d s
  | .stallP x => Sys2Proof.Machine.execStallP x s
  | .idleWait => Sys2Proof.Machine.execIdleWait s
  | .pulseCycle => Sys2Proof.Machine.execPulseCycle s
  | .frameComplete => Sys2Proof.Machine.execFrameComplete s
  | .frameTimeout => Sys2Proof.Machine.execFrameTimeout s
  | .recvWait => Sys2Proof.Machine.execRecvWait s
  | .ok => Sys2Proof.Machine.execOk s
  | .ready => Sys2Proof.Machine.execReady s
  | .errLen => Sys2Proof.Machine.execErrLen s
  | .errTimeout => Sys2Proof.Machine.execErrTimeout s
  | .done => Sys2Proof.Machine.execDone s

end Sys2Proof.Machine
end

