-- ==== Sys2Proof/Machine/Env.lean ====
section
/-! DEFINITION. The moves of the environment: the host, time, the runtime and power (00_scope.md R6, 30_encoding.md R93,
70_reset_and_hazards.md R209). None of the host's, of time's or of the runtime's writes the block's own state (10_state.md R32). -/

namespace Sys2Proof.Machine

/-- The host appends bytes at the tail of the input queue (R28). -/
def hostSend (bytes : List Byte) (s : State) : State := setRxq (s.rxq ++ bytes) s

/-- Time passes: `now <- now +_32 ms` (R93; the width is `TIME_W`). -/
def advance (ms : Nat) (s : State) : State := { s with now := s.now + BitVec.ofNat hw.timeW ms }

/-- One move. The invocation of a step is not an effect of its own: `deliver` stops there. -/
def applyMove (m : Move) (s : State) : State :=
  match m with
  | .send bytes => hostSend bytes s
  | .pulse => hostSend hw.cmdToken s
  | .hdr n => hostSend (beBytes n) s
  | .adv ms => advance ms s
  | .step => s
  | .powerOn => powerOn s

def setPending (ms : List Move) (s : State) : State := { s with pending := ms }

/-- Make the moves in order up to and including the next `STEP`, or all of them (R58: what arrives during a step arrives before the
next one). Log entry 7. -/
def deliver (moves : List Move) (s : State) : State :=
  match moves with
  | [] => setPending [] s
  | .step :: ms => setPending ms s
  | m :: ms => deliver ms (applyMove m s)

/-- `FRAME n: b0 b1 ...` of R93. -/
def frameMoves (payload : List Byte) : List Move := [.hdr (BitVec.ofNat 32 payload.length), .send payload]

/-- `FILL n v` of R93. -/
def fillMove (n : Nat) (v : Byte) : Move := .send (List.replicate n v)

/-- `STEP xN` of R93. -/
def stepMoves (n : Nat) : List Move := List.replicate n .step

end Sys2Proof.Machine
end

