-- ==== Sys2Proof/Machine/Handlers.lean ====
section
/-! DEFINITION. The step of the block: the handlers of the three Connection States (40_common_ops.md R110, 41_idle.md R129,
42_pulsing.md R139, 43_receiving.md R149), and where a given word is run next. -/

namespace Sys2Proof.Machine

/-- `StepIdle` and `StepPulsing`: the one operation that the head of the queue selects. -/
def stepTokens (s : State) : Out := exec (select s.conn s.rxq) s

/-- `Drain`: a `DATA` for each byte of the queue, while the frame lacks one (R150). -/
def drain (q : List Byte) (s : State) : Out :=
  match q with
  | [] => .next s
  | d :: rest => if frameOpen s then andThen (exec (.data d) s) (drain rest) else .next s

/-- What follows the drain: completion is tested before the timeout (R149). -/
def closing (s : State) : Instr :=
  if frameFull s then .frameComplete else if timedOut s then .frameTimeout else .recvWait

/-- `StepReceiving`. -/
def stepReceiving (s : State) : Out := andThen (drain s.rxq s) fun s => exec (closing s) s

/-- `Step`: exactly one handler, chosen by the Connection State as the step begins (R110, D7). -/
def blockStep (s : State) : Out :=
  match s.conn with
  | .idle => stepTokens s
  | .pulsing => stepTokens s
  | .receivingFrame => stepReceiving s

/-- The environment's moves up to the next invocation of the step, then the step. -/
def envStep (s : State) : Out := blockStep (deliver s.pending s)

/-! ### Where a word of the opcode table is run next. Log entry 8. -/

/-- The block between two frames: a state that decodes tokens, with nothing but `q` in the queue and no move to come. -/
def awaitToken (q : List Byte) (s : State) : State :=
  setPending [] (setRxq q (if s.conn == .receivingFrame then setConn .idle (clearCounters s) else s))

/-- The block inside a frame of `n` bytes of which none has come, with nothing but `q` in the queue and no move to come. -/
def awaitPayload (n : Len) (q : List Byte) (s : State) : State :=
  setPending [] (setRxq q (setConn .receivingFrame (setReceivedCnt 0 (setExpectedLen n s))))

/-- A state whose next step emits the given line. -/
def awaitStatus (st : Status) (s : State) : State :=
  match st with
  | .ok => awaitToken hw.cmdToken s
  | .ready => awaitToken (beBytes 1) s
  | .errLen => awaitToken (beBytes 0) s
  | .errTimeout =>
    setActivityTs (s.now - BitVec.ofNat hw.timeW (hw.payloadTimeoutMs + 1)) (awaitPayload 1 [] s)
  | .done => setMoreAnswers (false :: s.moreAnswers) (awaitPayload 1 [0] s)

/-- `s` with the word's bytes where the next step takes its instruction from. -/
def placeWord (nbits w : Nat) (s : State) : State :=
  let q := tableBytes nbits w
  match decodeStatus q with
  | some st => awaitStatus st s
  | none =>
    match q with
    | [_] => awaitPayload 2 q s
    | _ => awaitToken q s

end Sys2Proof.Machine
end

