-- ==== Sys2Proof/Machine/Step.lean ====
section
/-! DEFINITION. One step of the machine, and the state whose next step runs a given word. -/

namespace Sys2Proof.Machine

/-- One invocation of the step (40_common_ops.md R110), after the environment's moves that come before it. -/
def step (s : State) : Host.Outcome State Fault Refusal := envStep s

/-- `s` with the word placed where `step` fetches its next instruction. Log entry 8. -/
def State.withFetchWord (s : State) (nbits w : Nat) : State := placeWord nbits w s

end Sys2Proof.Machine
end

