-- ==== Sys2Proof/Machine/Display.lean ====
section
/-! DEFINITION. What the Display Surface reads from the Frame Buffer in a blit (40_common_ops.md R119, 20_memory.md R54, R62,
R68). The block's step uses none of it. -/

namespace Sys2Proof.Machine

/-- `MemRead(i, 1)` by the Display Surface in its k-th call: none where that call is no blit or the index lies outside the panel's
bitmap, else the frame's byte, and beyond the frame a free value (D20). Log entry 14. -/
def surfaceRead (s : State) (k i : Nat) : Option Byte :=
  match s.dslog[k]? with
  | some (.drawInvertedBitmap _ _ frame w h _) =>
    if i < rowStride w * h then
      match frame[i]? with
      | some b => some b
      | none => some (Config.staleByte k i)
    else none
  | _ => none

/-- The bit of pixel (x, y): bit `7 - (x mod 8)` of byte `y * ceil(PANEL_W / 8) + floor(x / 8)` (20_memory.md R54). Which value
draws the foreground is not in the source. -/
def surfacePixel (s : State) (k x y : Nat) : Option Bool :=
  match s.dslog[k]? with
  | some (.drawInvertedBitmap _ _ _ w h _) =>
    if x < w && y < h then
      match surfaceRead s k (y * rowStride w + x / 8) with
      | some b => some (b.getLsbD (7 - x % 8))
      | none => none
    else none
  | _ => none

end Sys2Proof.Machine
end

