-- ==== Sys2Proof/Safety.lean ====
section
/-! DEFINITION. What holds at every step boundary (10_state.md R33), when a render call ends (40_common_ops.md R117), and when a
run has ended (70_reset_and_hazards.md R208). -/

namespace Sys2Proof.Machine

/-- A log that is a concatenation of whole status lines. -/
def WholeLines (log : List Byte) : Prop := ∃ ls : List Status, log = ls.flatMap statusLine

/-- I-a of R33: outside ReceivingFrame both counters are 0. -/
def CountersIdle (s : State) : Prop := s.conn ≠ .receivingFrame → s.expectedLen = 0 ∧ s.receivedCnt = 0

/-- I-b of R33: inside ReceivingFrame the frame has a valid length and lacks at least one byte. -/
def CountersActive (s : State) : Prop :=
  s.conn = .receivingFrame →
    1 ≤ s.expectedLen.toNat ∧ s.expectedLen.toNat ≤ hw.capacity ∧ s.receivedCnt.toNat < s.expectedLen.toNat

/-- I-c of R33, as it shows in the Frame Buffer: no byte at an index >= C was ever written, and the memory is in its canonical
form. -/
def BufferBounded (s : State) : Prop := Memory.wf s.fb = true ∧ ∀ c ∈ s.fb, c.1 < hw.capacity

/-- Every payload byte counted so far is in the Frame Buffer (R53). -/
def PrefixStored (s : State) : Prop :=
  s.conn = .receivingFrame → ∀ k < s.receivedCnt.toNat, (Memory.read s.fb k).isSome = true

/-- What holds at every step boundary, from reset on: R33, and that the counted payload bytes are stored. -/
structure Inv (s : State) : Prop where
  idle : CountersIdle s
  active : CountersActive s
  bounded : BufferBounded s
  stored : PrefixStored s
  lines : WholeLines s.txlog

/-- The next render call ends: the Display Surface answers false at some point (the premise of D14 and D24). -/
def RenderEnds (s : State) : Prop := s.moreRest = false ∨ false ∈ s.moreAnswers

/-- The next render call has k pages answered true before the one answered false, and leaves the answers `left`. -/
def Pages (k : Nat) (left : List Bool) (s : State) : Prop :=
  s.moreAnswers = List.replicate k true ++ false :: left ∨
    (s.moreAnswers = List.replicate k true ∧ s.moreRest = false ∧ left = [])

/-- The calls of one render call of k + 1 pages (R117): one `setFullWindow`, one `beginFrame`, the body once a page, one
`powerOff`. -/
def renderCalls (body : List DsCall) (k : Nat) : List DsCall :=
  [.setFullWindow, .beginFrame] ++ (List.replicate k (body ++ [.isMoreToRender true])).flatten ++ body ++
    [.isMoreToRender false, .powerOff]

/-- Quiescent: Idle, and neither `CmdMatch` nor `HdrReady` holds (R208). -/
def Quiescent (s : State) : Prop := s.conn = .idle ∧ noToken s = true

end Sys2Proof.Machine
end

