-- ==== Sys2Proof/Certificates/Slice0/Obligations.lean ====
section
/-! DEFINITION. The statements for the provers, from the numbered rules of spec/. -/

open Sys2Proof Sys2Proof.Machine

/-! ### Encoding -/

/-- Words written out from the spec's encodings decode to what they stand for (R81, R82, R83, R88 and the header example of
20_memory.md R52), and the status lines are the bytes of R90 (the codes are ASCII, the terminator is D15). -/
def Obligations.SpecWordsDecode : Prop :=
  decode .idle [0x50, 0x55, 0x4C, 0x53, 0x45] = .ok .pulse ∧
  decode .pulsing [0x50, 0x55, 0x4C, 0x53, 0x45] = .ok .pulseP ∧
  decode .idle [0x00, 0x00, 0x27, 0x60] = .ok (.frame 10080) ∧
  decode .pulsing [0x00, 0x00, 0x30, 0xC0] = .ok (.frame 12480) ∧
  decode .idle [0x00, 0x00, 0x30, 0xC1] = .ok (.frameBig 12481) ∧
  decode .idle [0x00, 0x00, 0x00, 0x00] = .ok .frameZero ∧
  decode .idle [0x50, 0x55, 0x4C, 0x53, 0x58] = .ok (.stallP 0x554C5358) ∧
  decode .receivingFrame [0x50, 0x55, 0x4C, 0x53, 0x45] = .ok (.data 0x50) ∧
  encode .ok = [0x4F, 0x4B, 0x0A] ∧
  encode .ready = [0x52, 0x45, 0x41, 0x44, 0x59, 0x0A] ∧
  encode .errLen = [0x45, 0x52, 0x52, 0x5F, 0x4C, 0x45, 0x4E, 0x0A] ∧
  encode .errTimeout = [0x45, 0x52, 0x52, 0x5F, 0x54, 0x49, 0x4D, 0x45, 0x4F, 0x55, 0x54, 0x0A] ∧
  encode .done = [0x44, 0x4F, 0x4E, 0x45, 0x0A]

/-- Every well-formed token, with every operand its encoding admits and whatever follows it in the queue, decodes from its
encoding in each Connection State that decodes it (R81 to R84, R88). -/
def Obligations.DecodeOfEncode : Prop :=
  ∀ (i : Instr) (c : Conn) (rest : List Byte), WellFormed i = true → decodedIn i c = true →
    decode c (encode i ++ rest) = .ok i

/-- What the decoder reads is well-formed, is decoded in that Connection State, and its encoding is what the queue begins with. -/
def Obligations.EncodeOfDecode : Prop :=
  ∀ (c : Conn) (q : List Byte) (i : Instr), decode c q = .ok i →
    WellFormed i = true ∧ decodedIn i c = true ∧ encode i <+: q

/-- A whole status line read back is its status, and no other bytes are (R90). -/
def Obligations.StatusLinesReadBack : Prop :=
  ∀ (q : List Byte) (st : Status), decodeStatus q = some st ↔ q = statusLine st

/-- The six rows of R85: what the decoder says of a queue in Idle and in Pulsing, by the number of bytes and the first five. -/
def Obligations.DecoderVerdicts : Prop :=
  ∀ (c : Conn) (cmd : Instr) (q : List Byte), (c = .idle ∧ cmd = .pulse) ∨ (c = .pulsing ∧ cmd = .pulseP) →
    (decode c q = .ok cmd ↔ hw.cmdLen ≤ q.length ∧ q.take hw.cmdLen = hw.cmdToken) ∧
    ((∃ L, decode c q = .ok (headerInstr L) ∧ headerLength q = some L) ↔
      hw.hdrLen ≤ q.length ∧ q.head? ≠ some hw.cmdFirst) ∧
    (decode c q = .error .empty ↔ q.length = 0) ∧
    (decode c q = .error .headerFragment ↔ 1 ≤ q.length ∧ q.length < hw.hdrLen ∧ q.head? ≠ some hw.cmdFirst) ∧
    (decode c q = .error .commandFragment ↔ 1 ≤ q.length ∧ q.length < hw.cmdLen ∧ q.head? = some hw.cmdFirst) ∧
    ((∃ x, decode c q = .ok (.stallP x)) ↔
      hw.cmdLen ≤ q.length ∧ q.head? = some hw.cmdFirst ∧ q.take hw.cmdLen ≠ hw.cmdToken)

/-- Decoding looks at no byte beyond the first `LOOKAHEAD` (R10, R28; the five bytes are D3). -/
def Obligations.LookaheadSuffices : Prop :=
  ∀ (c : Conn) (q q' : List Byte), q.take hw.lookahead = q'.take hw.lookahead → decode c q = decode c q'

/-- The three classes of a length, by byte pattern, for every header whose first byte is not 0x50 (R87). -/
def Obligations.LengthClasses : Prop :=
  ∀ (c : Conn) (b0 b1 b2 b3 : Byte) (rest : List Byte), c ≠ .receivingFrame → b0 ≠ hw.cmdFirst →
    if b0 = 0 ∧ b1 = 0 ∧ b2 = 0 ∧ b3 = 0 then decode c (b0 :: b1 :: b2 :: b3 :: rest) = .ok .frameZero
    else if b0 = 0 ∧ b1 = 0 ∧ (b2.toNat < 0x30 ∨ (b2 = 0x30 ∧ b3.toNat ≤ 0xC0)) then
      decode c (b0 :: b1 :: b2 :: b3 :: rest) = .ok (.frame (be32 b0 b1 b2 b3))
    else decode c (b0 :: b1 :: b2 :: b3 :: rest) = .ok (.frameBig (be32 b0 b1 b2 b3))

/-! ### What each instruction does -/

/-- `PULSE` in Idle (R130). -/
def Obligations.PulseAcceptedInIdle : Prop :=
  ∀ (s : State) (rest : List Byte), s.conn = .idle → s.rxq = hw.cmdToken ++ rest →
    exec .pulse s =
      .next { s with rxq := rest, txlog := s.txlog ++ statusLine .ok, conn := .pulsing }

/-- `PULSE` while Pulsing (42_pulsing.md R140, decision D9 of the spec): consumed, acknowledged, the state and the toggle kept, no
fill. -/
def Obligations.PulseRepeatedInPulsing : Prop :=
  ∀ (s : State) (rest : List Byte), s.conn = .pulsing → s.rxq = hw.cmdToken ++ rest →
    exec .pulseP s = .next { s with rxq := rest, txlog := s.txlog ++ statusLine .ok }

/-- A valid header is accepted, in Idle and in Pulsing alike (R112, R115; that `activity_ts` is written is the spec's decision
D6). -/
def Obligations.ValidHeaderAccepted : Prop :=
  ∀ (s : State) (L : BitVec 32) (rest : List Byte), s.conn ≠ .receivingFrame → s.rxq = beBytes L ++ rest →
    1 ≤ L.toNat → L.toNat ≤ hw.capacity →
    ∃ t : State, exec (.frame L) s = .next t ∧ t.expectedLen.toNat = L.toNat ∧
      t = { s with
        rxq := rest
        txlog := s.txlog ++ statusLine .ready
        expectedLen := t.expectedLen
        receivedCnt := 0
        activityTs := s.now
        conn := .receivingFrame }

/-- A header with L = 0 or L > C is rejected, in Idle and in Pulsing alike: `ERR_LEN`, the queue flushed, both counters 0, Idle
(R116, R161). -/
def Obligations.InvalidHeaderRejected : Prop :=
  ∀ (s : State) (L : BitVec 32) (rest : List Byte), s.conn ≠ .receivingFrame → s.rxq = beBytes L ++ rest →
    topByte L ≠ hw.cmdFirst →
    (L = 0 → exec .frameZero s =
      .next { s with
        rxq := [], txlog := s.txlog ++ statusLine .errLen, expectedLen := 0, receivedCnt := 0, conn := .idle }) ∧
    (hw.capacity < L.toNat → exec (.frameBig L) s =
      .next { s with
        rxq := [], txlog := s.txlog ++ statusLine .errLen, expectedLen := 0, receivedCnt := 0, conn := .idle })

/-- `DATA`: the byte goes to `fb[received_cnt]`, every other byte of the buffer reads as before (R150; one time a step is the
spec's decision D5). -/
def Obligations.PayloadByteStored : Prop :=
  ∀ (s : State) (d : Byte) (rest : List Byte), s.conn = .receivingFrame →
    s.receivedCnt.toNat < s.expectedLen.toNat → s.expectedLen.toNat ≤ hw.capacity → s.rxq = d :: rest →
    ∃ t : State, exec (.data d) s = .next t ∧
      t = { s with rxq := rest, receivedCnt := t.receivedCnt, activityTs := s.now, fb := t.fb } ∧
      t.receivedCnt.toNat = s.receivedCnt.toNat + 1 ∧
      Memory.read t.fb s.receivedCnt.toNat = some d ∧
      ∀ a, a ≠ s.receivedCnt.toNat → Memory.read t.fb a = Memory.read s.fb a

/-- Idle wait: in each of the four forms nothing changes, in this step or in one at any other time (R133; that a header fragment is
kept without limit rests on the spec's decision D10, log entry 23). -/
def Obligations.IdleWaitsUnchanged : Prop :=
  ∀ s : State, s.conn = .idle →
    (s.rxq = [] ∨ (s.rxq.length < hw.hdrLen ∧ s.rxq.head? ≠ some hw.cmdFirst) ∨
      (s.rxq.length < hw.cmdLen ∧ s.rxq.head? = some hw.cmdFirst) ∨
      (hw.cmdLen ≤ s.rxq.length ∧ s.rxq.head? = some hw.cmdFirst ∧ s.rxq.take hw.cmdLen ≠ hw.cmdToken)) →
    exec .idleWait s = .next s ∧
    (s.pending = [] → ∀ t : Time, step { s with now := t } = .next { s with now := t })

/-- A stalled head consumes nothing and emits nothing: in Idle nothing changes, in Pulsing a pulse cycle is drawn (R88 and the
opcode table's row `STALL.P`; the pages are D14). -/
def Obligations.StalledHeadKept : Prop :=
  ∀ (s : State) (x : BitVec 32) (rest : List Byte), s.rxq = hw.cmdFirst :: beBytes x ++ rest →
    hw.cmdFirst :: beBytes x ≠ hw.cmdToken →
    (s.conn = .idle → exec (.stallP x) s = .next s) ∧
    ∀ k left, s.conn = .pulsing → Pages k left s →
      exec (.stallP x) s =
        .next { s with
          dslog := s.dslog ++ renderCalls [.fill (Config.pulseColor s.pulseToggle)] k
          moreAnswers := left
          pulseToggle := !s.pulseToggle }

/-- Pulse cycle: one fill of the whole window with the toggle's colour, on every page, then the toggle inverted (R142, R118; the
paged loop is D14, the colours are the open parameters of D12). -/
def Obligations.PulseCycleDraws : Prop :=
  ∀ (s : State) (k : Nat) (left : List Bool), s.conn = .pulsing → noToken s = true → Pages k left s →
    exec .pulseCycle s =
      .next { s with
        dslog := s.dslog ++ renderCalls [.fill (Config.pulseColor s.pulseToggle)] k
        moreAnswers := left
        pulseToggle := !s.pulseToggle }

/-- Frame completion: the render of exactly the payload, then `DONE`, both counters 0, Idle (R151, R119; the paged loop is D14, the
blit's arguments are D13). -/
def Obligations.CompleteFrameRendered : Prop :=
  ∀ (s : State) (payload : List Byte) (k : Nat) (left : List Bool), s.conn = .receivingFrame →
    s.receivedCnt = s.expectedLen → payload.length = s.expectedLen.toNat →
    (∀ i (h : i < payload.length), Memory.read s.fb i = some payload[i]) → Pages k left s →
    exec .frameComplete s =
      .next { s with
        dslog := s.dslog ++
          renderCalls [.fill .white, .drawInvertedBitmap hw.blitX hw.blitY payload panelW panelH hw.blitFg] k
        moreAnswers := left
        txlog := s.txlog ++ statusLine .done
        expectedLen := 0
        receivedCnt := 0
        conn := .idle }

/-- A render call whose `isMoreToRender()` never answers false does not end: each of the three operations that make one hangs (R117,
U14; the paged loop is D14, the fault's name is log entry 6). -/
def Obligations.EndlessRenderHangs : Prop :=
  ∀ s : State, s.moreRest = true → (∀ a ∈ s.moreAnswers, a = true) →
    (s.conn = .pulsing → noToken s = true → exec .pulseCycle s = .fault .renderHang) ∧
    (∀ (x : BitVec 32) (rest : List Byte), s.conn = .pulsing → s.rxq = hw.cmdFirst :: beBytes x ++ rest →
      hw.cmdFirst :: beBytes x ≠ hw.cmdToken → exec (.stallP x) s = .fault .renderHang) ∧
    (s.conn = .receivingFrame → s.receivedCnt = s.expectedLen →
      (∀ i < s.expectedLen.toNat, (Memory.read s.fb i).isSome = true) →
      exec .frameComplete s = .fault .renderHang)

/-- Payload timeout: strict, `ERR_TIMEOUT`, the queue flushed, both counters 0, Idle (R162). -/
def Obligations.PayloadTimesOut : Prop :=
  ∀ s : State, s.conn = .receivingFrame → s.receivedCnt.toNat < s.expectedLen.toNat →
    hw.payloadTimeoutMs < (s.now - s.activityTs).toNat →
    exec .frameTimeout s =
      .next { s with
        rxq := [], txlog := s.txlog ++ statusLine .errTimeout, expectedLen := 0, receivedCnt := 0, conn := .idle }

/-- Receive wait: nothing beyond the drain, and with an empty queue the whole step changes nothing (R153). -/
def Obligations.ReceiveWaitsUnchanged : Prop :=
  ∀ s : State, s.conn = .receivingFrame → s.receivedCnt.toNat < s.expectedLen.toNat →
    (s.now - s.activityTs).toNat ≤ hw.payloadTimeoutMs →
    exec .recvWait s = .next s ∧ (s.pending = [] → s.rxq = [] → step s = .next s)

/-- `EmitStatus`: one whole line is appended to `txlog`, nothing else changes, it never blocks and never fails (R113; that a status
row of the table is an instruction, run in every state, is log entry 27; the codes are ASCII, G1). -/
def Obligations.StatusLinesWritten : Prop :=
  ∀ s : State,
    exec .ok s = .next { s with txlog := s.txlog ++ [0x4F, 0x4B] ++ hw.nl } ∧
    exec .ready s = .next { s with txlog := s.txlog ++ [0x52, 0x45, 0x41, 0x44, 0x59] ++ hw.nl } ∧
    exec .errLen s = .next { s with txlog := s.txlog ++ [0x45, 0x52, 0x52, 0x5F, 0x4C, 0x45, 0x4E] ++ hw.nl } ∧
    exec .errTimeout s =
      .next { s with
        txlog := s.txlog ++ [0x45, 0x52, 0x52, 0x5F, 0x54, 0x49, 0x4D, 0x45, 0x4F, 0x55, 0x54] ++ hw.nl } ∧
    exec .done s = .next { s with txlog := s.txlog ++ [0x44, 0x4F, 0x4E, 0x45] ++ hw.nl }

/-- Both recoveries: the status line, the flush, the counters, Idle, and nothing else, nothing saved (R169). -/
def Obligations.RecoverySameForBoth : Prop :=
  ∀ (e : Exc) (s : State),
    takeException e s =
      { s with
        txlog := s.txlog ++ statusLine (match e with | .lengthError => .errLen | .payloadTimeout => .errTimeout)
        rxq := []
        expectedLen := 0
        receivedCnt := 0
        conn := .idle }

/-- Outside the Connection States that run it, an operation stops by name (R84 and the conditions of the opcode table; that exec
then stops is the model's choice, log entry 9). The status lines run in every state, log entry 27. -/
def Obligations.StopsOutsideItsState : Prop :=
  ∀ s : State,
    (s.conn = .pulsing → ∀ i ∈ [Instr.pulse, .idleWait], exec i s = .fault .notSelected) ∧
    (s.conn = .idle → ∀ i ∈ [Instr.pulseP, .pulseCycle], exec i s = .fault .notSelected) ∧
    (s.conn = .receivingFrame → ∀ i ∈ [Instr.pulse, .pulseP, .frameZero, .idleWait, .pulseCycle],
      exec i s = .fault .notSelected) ∧
    (s.conn = .receivingFrame → ∀ L, exec (.frame L) s = .fault .notSelected ∧
      exec (.frameBig L) s = .fault .notSelected ∧ exec (.stallP L) s = .fault .notSelected) ∧
    (s.conn ≠ .receivingFrame → ∀ d, exec (.data d) s = .fault .notSelected) ∧
    (s.conn ≠ .receivingFrame → ∀ i ∈ [Instr.frameComplete, .frameTimeout, .recvWait],
      exec i s = .fault .notSelected)

/-! ### Frames: what an instruction leaves unchanged -/

/-- `DATA` is the only writer of the Frame Buffer, and it writes one byte, at `received_cnt` (R27, R150). -/
def Obligations.OnlyDataWritesBuffer : Prop :=
  ∀ (i : Instr) (s s' : State), exec i s = .next s' →
    ((∀ d, i ≠ .data d) → ∀ a, Memory.read s'.fb a = Memory.read s.fb a) ∧
    ((∃ d, i = .data d) → ∀ a, a ≠ s.receivedCnt.toNat → Memory.read s'.fb a = Memory.read s.fb a)

/-- The Pulse Toggle changes only in a pulse cycle, which inverts it: `PULSE.CYCLE`, or `STALL.P` in Pulsing (R26). -/
def Obligations.ToggleOnlyByPulseCycle : Prop :=
  ∀ (i : Instr) (s s' : State), exec i s = .next s' →
    (s'.pulseToggle = s.pulseToggle ∨ s'.pulseToggle = !s.pulseToggle) ∧
    (s'.pulseToggle ≠ s.pulseToggle → s.conn = .pulsing ∧ (i = .pulseCycle ∨ ∃ x, i = .stallP x))

/-- `activity_ts` is written only by an accepted header and by a payload byte, with the step's time (R25; the write at the header is
the spec's decision D6). -/
def Obligations.ActivityTsWriters : Prop :=
  ∀ (i : Instr) (s s' : State), exec i s = .next s' →
    ((∃ L, i = .frame L) ∨ (∃ d, i = .data d) → s'.activityTs = s.now) ∧
    ((∀ L, i ≠ .frame L) → (∀ d, i ≠ .data d) → s'.activityTs = s.activityTs)

/-- The counters are written only by a header, a payload byte (the received count), a completion and a timeout (R23, R24). -/
def Obligations.CounterWriters : Prop :=
  ∀ (i : Instr) (s s' : State), exec i s = .next s' →
    ((∀ L, i ≠ .frame L ∧ i ≠ .frameBig L) → i ≠ .frameZero → i ≠ .frameComplete → i ≠ .frameTimeout →
      s'.expectedLen = s.expectedLen ∧ ((∀ d, i ≠ .data d) → s'.receivedCnt = s.receivedCnt))

/-- The Connection State is written only by `PULSE`, a header, a completion and a timeout (R22). -/
def Obligations.ConnWriters : Prop :=
  ∀ (i : Instr) (s s' : State), exec i s = .next s' → s'.conn ≠ s.conn →
    (i = .pulse ∧ s'.conn = .pulsing) ∨ ((∃ L, i = .frame L) ∧ s'.conn = .receivingFrame) ∨
    ((i = .frameZero ∨ ∃ L, i = .frameBig L) ∧ s'.conn = .idle) ∨
    ((i = .frameComplete ∨ i = .frameTimeout) ∧ s'.conn = .idle)

/-- The Display Surface is called by a pulse cycle and by a completion and by nothing else, and the clock, the start-ups and the
environment's moves are no operation's to change (R174; that the answers are state is the model's own, log entry 5). -/
def Obligations.DisplayCallers : Prop :=
  ∀ (i : Instr) (s s' : State), exec i s = .next s' →
    s'.now = s.now ∧ s'.moreRest = s.moreRest ∧ s'.boots = s.boots ∧ s'.pending = s.pending ∧
    (i ≠ .pulseCycle → (∀ x, i ≠ .stallP x) → i ≠ .frameComplete →
      s'.dslog = s.dslog ∧ s'.moreAnswers = s.moreAnswers)

/-- An instruction emits at most one status line, and nothing else is ever written to the output log (R29, R90, R168). -/
def Obligations.OneLineAtMost : Prop :=
  ∀ (i : Instr) (s s' : State), exec i s = .next s' →
    s'.txlog = s.txlog ∨ ∃ st : Status, s'.txlog = s.txlog ++ statusLine st

/-- The queue is consumed from its head: five bytes by a command, one by a payload byte, four by an accepted header, all of it by
an error, none by anything else (R66, R111, R122). -/
def Obligations.QueueConsumedFromHead : Prop :=
  ∀ (i : Instr) (s s' : State), exec i s = .next s' →
    s'.rxq =
      match i with
      | .pulse | .pulseP => s.rxq.drop hw.cmdLen
      | .frame _ => s.rxq.drop hw.hdrLen
      | .data _ => s.rxq.drop 1
      | .frameZero | .frameBig _ | .frameTimeout => []
      | .stallP _ | .idleWait | .pulseCycle | .frameComplete | .recvWait
      | .ok | .ready | .errLen | .errTimeout | .done => s.rxq

/-- The read gate: a blit is called only by a completion, with `received_cnt` = `expected_len`, and it is of exactly the bytes
stored for the frame (R62). -/
def Obligations.BlitOnlyOfCompleteFrame : Prop :=
  ∀ (i : Instr) (s s' : State) (x y w h : Nat) (frame : List Byte) (fg : Color), exec i s = .next s' →
    .drawInvertedBitmap x y frame w h fg ∈ s'.dslog.drop s.dslog.length →
    i = .frameComplete ∧ s.receivedCnt = s.expectedLen ∧
      frame.length = s.expectedLen.toNat ∧ ∀ k (hk : k < frame.length), Memory.read s.fb k = some frame[k]

/-! ### The step -/

/-- A step makes the environment's moves up to the next invocation, and then runs the instruction that the head of the queue
decodes to; where none is there, the wait or the pulse cycle; in ReceivingFrame a `DATA` for each byte while the frame lacks one,
then the closing operation (R110, R129, R139, R149; the pending moves are the model's own, log entry 7). -/
def Obligations.StepRunsDecodedInstruction : Prop :=
  ∀ s e : State, e = deliver s.pending s →
    (∀ i, e.conn ≠ .receivingFrame → decode e.conn e.rxq = .ok i → step s = exec i e) ∧
    (∀ p, e.conn = .idle → decode e.conn e.rxq = .error p → step s = exec .idleWait e) ∧
    (∀ p, e.conn = .pulsing → decode e.conn e.rxq = .error p → step s = exec .pulseCycle e) ∧
    (e.conn = .receivingFrame → step s = andThen (drain e.rxq e) fun t => exec (closing t) t) ∧
    (∀ d rest t, decode .receivingFrame (d :: rest) = .ok (.data d) ∧
      (t.receivedCnt.toNat < t.expectedLen.toNat → drain (d :: rest) t = andThen (exec (.data d) t) (drain rest)) ∧
      (t.expectedLen.toNat ≤ t.receivedCnt.toNat → drain (d :: rest) t = .next t)) ∧
    (s.pending = [] → e = s)

/-- The drain: `min(rx_avail, expected_len - received_cnt)` bytes go to consecutive indices in arrival order, the rest of the queue
and every other byte of the buffer stay (R150, R53; one time a step is the spec's decision D5). -/
def Obligations.DrainStoresPayload : Prop :=
  ∀ s : State, s.conn = .receivingFrame → s.receivedCnt.toNat ≤ s.expectedLen.toNat → s.expectedLen.toNat ≤ hw.capacity →
    ∃ t : State, drain s.rxq s = .next t ∧
      t = { s with
        rxq := s.rxq.drop (drainCount s)
        receivedCnt := t.receivedCnt
        fb := t.fb
        activityTs := if drainCount s = 0 then s.activityTs else s.now } ∧
      t.receivedCnt.toNat = s.receivedCnt.toNat + drainCount s ∧
      (∀ k < drainCount s, Memory.read t.fb (s.receivedCnt.toNat + k) = s.rxq[k]?) ∧
      ∀ a, (a < s.receivedCnt.toNat ∨ s.receivedCnt.toNat + drainCount s ≤ a) →
        Memory.read t.fb a = Memory.read s.fb a

/-- The step that receives the last byte (T9 of R122): the blit is of the bytes stored before and the bytes drained now, then
`DONE`, Idle, and what follows the frame stays in the queue, whatever the time (R149, R151; the paged loop is D14). -/
def Obligations.LastByteCompletesFrame : Prop :=
  ∀ (s : State) (stored : List Byte) (k : Nat) (left : List Bool), s.pending = [] → s.conn = .receivingFrame →
    s.receivedCnt.toNat < s.expectedLen.toNat → s.expectedLen.toNat ≤ hw.capacity →
    stored.length = s.receivedCnt.toNat →
    (∀ i (h : i < stored.length), Memory.read s.fb i = some stored[i]) →
    remaining s ≤ s.rxq.length → Pages k left s →
    ∃ t : State, step s = .next t ∧
      t = { s with
        conn := .idle
        expectedLen := 0
        receivedCnt := 0
        rxq := s.rxq.drop (remaining s)
        activityTs := s.now
        fb := t.fb
        txlog := s.txlog ++ statusLine .done
        dslog := s.dslog ++ renderCalls (frameBody (stored ++ s.rxq.take (remaining s))) k
        moreAnswers := left }

/-- A step that finds fewer bytes than the frame needs, but at least one, stores them at consecutive indices in arrival order and
stays, however long the gap was: a late byte rescues the transfer (T11 of R122, R200, 90_conflicts.md C7; one time a step is the
spec's decision D5). -/
def Obligations.LateByteRescuesTransfer : Prop :=
  ∀ s : State, s.pending = [] → s.conn = .receivingFrame → s.expectedLen.toNat ≤ hw.capacity →
    1 ≤ s.rxq.length → s.rxq.length < remaining s →
    ∃ t : State, step s = .next t ∧
      t = { s with rxq := [], activityTs := s.now, receivedCnt := t.receivedCnt, fb := t.fb } ∧
      t.receivedCnt.toNat = s.receivedCnt.toNat + s.rxq.length ∧
      (∀ k < s.rxq.length, Memory.read t.fb (s.receivedCnt.toNat + k) = s.rxq[k]?) ∧
      ∀ a, (a < s.receivedCnt.toNat ∨ s.receivedCnt.toNat + s.rxq.length ≤ a) →
        Memory.read t.fb a = Memory.read s.fb a

/-- A header in Pulsing ends the pulse within that step, with no fill, and is interpreted as in Idle (R139, R141; that the check
comes first is D8, the write of `activity_ts` is D6). -/
def Obligations.HeaderInterruptsPulse : Prop :=
  ∀ (s : State) (b0 b1 b2 b3 : Byte) (rest : List Byte), s.pending = [] → s.conn = .pulsing →
    s.rxq = b0 :: b1 :: b2 :: b3 :: rest → b0 ≠ hw.cmdFirst →
    step s = step { s with conn := .idle } ∧
    ∃ t : State, step s = .next t ∧ t.dslog = s.dslog ∧ t.pulseToggle = s.pulseToggle ∧
      ((lengthValid (be32 b0 b1 b2 b3) = true ∧ t.conn = .receivingFrame ∧ t.rxq = rest ∧
          t.txlog = s.txlog ++ statusLine .ready) ∨
        (lengthValid (be32 b0 b1 b2 b3) = false ∧ t.conn = .idle ∧ t.rxq = [] ∧
          t.txlog = s.txlog ++ statusLine .errLen))

/-- The transition table of R122: the Connection State after a step, as a function of the state before it. -/
def Obligations.TransitionsAsTabled : Prop :=
  ∀ s s' : State, s.pending = [] → Inv s → step s = .next s' →
    s'.conn =
      match s.conn with
      | .idle =>
        if cmdMatch s.rxq then .pulsing
        else if hdrReady s.rxq then
          if ∃ L, headerLength s.rxq = some L ∧ 1 ≤ L.toNat ∧ L.toNat ≤ hw.capacity then .receivingFrame else .idle
        else .idle
      | .pulsing =>
        if cmdMatch s.rxq then .pulsing
        else if hdrReady s.rxq then
          if ∃ L, headerLength s.rxq = some L ∧ 1 ≤ L.toNat ∧ L.toNat ≤ hw.capacity then .receivingFrame else .idle
        else .pulsing
      | .receivingFrame =>
        if s.expectedLen.toNat - s.receivedCnt.toNat ≤ s.rxq.length then .idle
        else if s.rxq = [] ∧ hw.payloadTimeoutMs < (s.now - s.activityTs).toNat then .idle
        else .receivingFrame

/-- No payload byte's value is looked at: two steps of ReceivingFrame whose queues are as long end alike (R83, R150). -/
def Obligations.PayloadValuesIgnored : Prop :=
  ∀ (s a b : State) (q : List Byte), s.pending = [] → s.conn = .receivingFrame → q.length = s.rxq.length →
    step s = .next a → step { s with rxq := q } = .next b →
    a.conn = b.conn ∧ a.expectedLen = b.expectedLen ∧ a.receivedCnt = b.receivedCnt ∧
      a.activityTs = b.activityTs ∧ a.txlog = b.txlog ∧ a.moreAnswers = b.moreAnswers ∧ a.pulseToggle = b.pulseToggle ∧
      a.rxq.length = b.rxq.length

/-- Both logs only grow (R29, R31, R59). -/
def Obligations.LogsOnlyGrow : Prop :=
  ∀ s s' : State, step s = .next s' → s.txlog <+: s'.txlog ∧ s.dslog <+: s'.dslog

/-- The environment's moves other than the reset event write none of the block's own state, neither log, and only append to the
queue (R28, R32). -/
def Obligations.EnvironmentWritesNoRegister : Prop :=
  ∀ (moves : List Move) (s : State), .powerOn ∉ moves →
    s.rxq <+: (deliver moves s).rxq ∧
    deliver moves s =
      { s with rxq := (deliver moves s).rxq, now := (deliver moves s).now, pending := (deliver moves s).pending }

/-! ### Reset and the invariant -/

/-- What reset leaves: Idle, both counters 0, no byte of the buffer holding a value, nothing written and nothing called; a later
start-up leaves the queue, the clock and both logs as they were (R38, R190 to R192; that the rest is unspecified is D17, so the
toggle and the timestamp are free values, log entries 1, 2 and 28). -/
def Obligations.ResetLeaves : Prop :=
  (State.reset.conn = .idle ∧ State.reset.expectedLen = 0 ∧ State.reset.receivedCnt = 0 ∧
    (∀ i, Memory.read State.reset.fb i = none) ∧ State.reset.txlog = [] ∧ State.reset.dslog = []) ∧
  ∀ s : State, (powerOn s).conn = .idle ∧ (powerOn s).expectedLen = 0 ∧ (powerOn s).receivedCnt = 0 ∧
    (∀ i, Memory.read (powerOn s).fb i = none) ∧ (powerOn s).txlog = s.txlog ∧ (powerOn s).dslog = s.dslog ∧
    (powerOn s).rxq = s.rxq ∧ (powerOn s).now = s.now

/-- The invariant holds at reset (R33). -/
def Obligations.ResetMeetsInvariant : Prop := Inv State.reset

/-- Every step keeps the invariant: I-a to I-d of R33, the buffer's canonical form and bound, and that the counted payload bytes are
stored. -/
def Obligations.StepKeepsInvariant : Prop :=
  ∀ s s' : State, Inv s → step s = .next s' → Inv s'

/-- No condition is fatal: from every state of the invariant a step answers a next state if the next render call ends, and can stop
in no other way than by a render call that never ends (R166, R170, R60; the paged loop is D14). -/
def Obligations.OnlyEndlessRenderStops : Prop :=
  ∀ s : State, Inv s →
    (RenderEnds s → ∃ s', step s = .next s') ∧
    (∀ r, step s = .fault r → r = .renderHang ∧ ¬RenderEnds s) ∧
    ∀ r, step s ≠ .refused r

/-! ### Whole runs -/

/-- The P stall is for good: without a start-up, whatever the host sends and however many steps run, the stalled head stays at the
head, nothing is emitted and the Connection State stays (R163, R196). -/
def Obligations.StallIsForGood : Prop :=
  ∀ (n : Nat) (s s' : State), .powerOn ∉ s.pending → s.conn ≠ .receivingFrame → stalled s.rxq = true →
    Sys2Proof.core.run n s = .next s' →
    s.rxq <+: s'.rxq ∧ s'.txlog = s.txlog ∧ s'.conn = s.conn ∧ s'.fb = s.fb

/-- Quiescent is exactly: one more step, at any time and with no new input, changes nothing (R208, decision D28). -/
def Obligations.QuiescentExactly : Prop :=
  ∀ s : State, Inv s → s.pending = [] →
    (Quiescent s ↔ ∀ t : Time, step { s with now := t } = .next { s with now := t })

/-- A frame sent in any pieces (S3 of 95_test_vectors.md): a header of length L in the queue of an Idle or Pulsing block, then one
step, then the L payload bytes in any split over steps, each piece at least one byte: `READY` then `DONE`, one blit of exactly
those bytes, and an Idle block with both counters 0 (one-page surface, as the vectors take it; D7, D14). -/
def Obligations.FrameInAnyPieces : Prop :=
  ∀ (s : State) (L : BitVec 32) (pieces : List (List Byte)), s.conn ≠ .receivingFrame →
    s.moreAnswers = [] → s.moreRest = false →
    1 ≤ L.toNat → L.toNat ≤ hw.capacity → s.rxq = beBytes L →
    (∀ p ∈ pieces, p ≠ []) → pieces.flatten.length = L.toNat →
    s.pending = .step :: pieces.flatMap (fun p => [.send p, .step]) →
    ∃ t : State, Sys2Proof.core.run (pieces.length + 1) s = .next t ∧
      t.conn = .idle ∧ t.expectedLen = 0 ∧ t.receivedCnt = 0 ∧ t.rxq = [] ∧ t.pending = [] ∧
      t.pulseToggle = s.pulseToggle ∧
      t.txlog = s.txlog ++ statusLine .ready ++ statusLine .done ∧
      t.dslog = s.dslog ++ renderCalls (frameBody pieces.flatten) 0

/-- Two frames of the same length and content, one after the other, give two identical pairs of lines and two identical blits (S8 of
95_test_vectors.md; one-page surface). -/
def Obligations.SameFrameTwiceSameBlit : Prop :=
  ∀ (s : State) (L : BitVec 32) (payload : List Byte), s.conn = .idle → s.pending = [] →
    s.moreAnswers = [] → s.moreRest = false →
    1 ≤ L.toNat → L.toNat ≤ hw.capacity → payload.length = L.toNat →
    s.rxq = beBytes L ++ payload ++ (beBytes L ++ payload) →
    ∃ t : State, Sys2Proof.core.run 4 s = .next t ∧ t.conn = .idle ∧ t.rxq = [] ∧
      t.txlog = s.txlog ++ (statusLine .ready ++ statusLine .done) ++ (statusLine .ready ++ statusLine .done) ∧
      t.dslog = s.dslog ++ renderCalls (frameBody payload) 0 ++ renderCalls (frameBody payload) 0

/-- n steps of an undisturbed pulse draw n fills whose colour index alternates, and leave the toggle at `p0 xor (n mod 2)` (R142 and
section 2.4 of 95_test_vectors.md; the colours themselves are the open parameters of D12; one-page surface). -/
def Obligations.PulseColoursAlternate : Prop :=
  ∀ (n : Nat) (s : State), s.conn = .pulsing → s.rxq = [] → s.pending = [] →
    s.moreAnswers = [] → s.moreRest = false →
    Sys2Proof.core.run n s =
      .next { s with
        pulseToggle := xor s.pulseToggle (decide (n % 2 = 1))
        dslog := s.dslog ++ (List.range n).flatMap fun j =>
          renderCalls [.fill (Config.pulseColor (xor s.pulseToggle (decide (j % 2 = 1))))] 0 }

/-! ### Arithmetic and the Display Surface's read -/

/-- The elapsed time is right across the wrap of the clock, as long as it is less than 2^`TIME_W` ms (R120; the width is D5). -/
def Obligations.ElapsedAcrossWrap : Prop :=
  ∀ (t : Time) (d : Nat), d < 2 ^ hw.timeW → (elapsed (t + BitVec.ofNat hw.timeW d) t).toNat = d

/-- In a blit the Display Surface reads the payload's own byte at every index of the frame that lies in the panel's bitmap (R119);
beyond the frame it reads some byte, of which nothing is said (D20, log entry 14). -/
def Obligations.SurfaceReadsPayload : Prop :=
  ∀ (s : State) (k x y w h i : Nat) (frame : List Byte) (fg : Color),
    s.dslog[k]? = some (.drawInvertedBitmap x y frame w h fg) → i < (w + 7) / 8 * h →
    (∀ hi : i < frame.length, surfaceRead s k i = some frame[i]) ∧ (surfaceRead s k i).isSome = true
end

