-- ==== Sys2Proof/Laws/Decode.lean ====
section
/-! SUPPORT. The parameters' values, and what each predicate and each verdict of the decoder says about the queue. -/

namespace Sys2Proof

@[simp] theorem hw_capacity : hw.capacity = 12480 := rfl
@[simp] theorem hw_cmdToken : hw.cmdToken = [0x50, 0x55, 0x4C, 0x53, 0x45] := rfl
@[simp] theorem hw_cmdLen : hw.cmdLen = 5 := rfl
@[simp] theorem hw_cmdFirst : hw.cmdFirst = 0x50 := rfl
@[simp] theorem hw_hdrLen : hw.hdrLen = 4 := rfl
@[simp] theorem hw_payloadTimeoutMs : hw.payloadTimeoutMs = 2000 := rfl
@[simp] theorem hw_nl : hw.nl = [0x0A] := rfl
@[simp] theorem hw_lookahead : hw.lookahead = 5 := rfl
@[simp] theorem hw_blitX : hw.blitX = 0 := rfl
@[simp] theorem hw_blitY : hw.blitY = 0 := rfl
@[simp] theorem hw_blitFg : hw.blitFg = .black := rfl

/-- The two widths; not `simp` lemmas, since they would rewrite the types `Time` and `Len` themselves. -/
theorem hw_timeW : hw.timeW = 32 := rfl
theorem hw_lenW : hw.lenW = 14 := rfl

theorem cmdMatch_iff {q : List Byte} :
    cmdMatch q = true ↔ ∃ rest, q = 0x50 :: 0x55 :: 0x4C :: 0x53 :: 0x45 :: rest := by
  constructor
  · intro h
    match q with
    | [] | [_] | [_, _] | [_, _, _] | [_, _, _, _] => simp [cmdMatch] at h
    | b0 :: b1 :: b2 :: b3 :: b4 :: rest =>
      simp only [cmdMatch, hw_cmdLen, hw_cmdToken, Bool.and_eq_true, beq_iff_eq, List.take_succ_cons,
        List.take_zero, List.cons.injEq] at h
      obtain ⟨-, rfl, rfl, rfl, rfl, rfl, -⟩ := h
      exact ⟨rest, rfl⟩
  · rintro ⟨rest, rfl⟩
    simp [cmdMatch]

theorem hdrReady_iff {q : List Byte} :
    hdrReady q = true ↔ ∃ b0 b1 b2 b3 rest, q = b0 :: b1 :: b2 :: b3 :: rest ∧ b0 ≠ 0x50 := by
  constructor
  · intro h
    match q with
    | [] | [_] | [_, _] | [_, _, _] => simp [hdrReady] at h
    | b0 :: b1 :: b2 :: b3 :: rest => exact ⟨b0, b1, b2, b3, rest, rfl, by simpa [hdrReady, rxPeek] using h⟩
  · rintro ⟨b0, b1, b2, b3, rest, rfl, h⟩
    simpa [hdrReady, rxPeek] using h

theorem stalled_iff {q : List Byte} :
    stalled q = true ↔
      ∃ x0 x1 x2 x3 rest, q = 0x50 :: x0 :: x1 :: x2 :: x3 :: rest ∧
        ¬(x0 = 0x55 ∧ x1 = 0x4C ∧ x2 = 0x53 ∧ x3 = 0x45) := by
  constructor
  · intro h
    match q with
    | [] | [_] | [_, _] | [_, _, _] | [_, _, _, _] => simp [stalled] at h
    | b0 :: b1 :: b2 :: b3 :: b4 :: rest =>
      simp only [stalled, cmdMatch, rxPeek, hw_cmdLen, hw_cmdToken, hw_cmdFirst, hw_lookahead] at h
      simp at h
      obtain ⟨rfl, h⟩ := h
      refine ⟨b1, b2, b3, b4, rest, rfl, ?_⟩
      rintro ⟨rfl, rfl, rfl, rfl⟩
      simp at h
  · rintro ⟨x0, x1, x2, x3, rest, rfl, h⟩
    simp only [stalled, cmdMatch, rxPeek, hw_cmdLen, hw_cmdToken, hw_cmdFirst, hw_lookahead]
    simpa [-not_and, ← not_and_or] using h

/-- `CmdMatch` and `HdrReady` exclude each other (R85). -/
theorem hdrReady_of_cmdMatch {q : List Byte} (h : cmdMatch q = true) : hdrReady q = false := by
  obtain ⟨rest, rfl⟩ := cmdMatch_iff.1 h
  simp [hdrReady, rxPeek]

theorem cmdMatch_of_hdrReady {q : List Byte} (h : hdrReady q = true) : cmdMatch q = false := by
  cases hc : cmdMatch q with
  | false => rfl
  | true => rw [hdrReady_of_cmdMatch hc] at h; cases h

theorem hdrReady_of_stalled {q : List Byte} (h : stalled q = true) : hdrReady q = false := by
  obtain ⟨x0, x1, x2, x3, rest, rfl, -⟩ := stalled_iff.1 h
  simp [hdrReady, rxPeek]

theorem cmdMatch_of_stalled {q : List Byte} (h : stalled q = true) : cmdMatch q = false := by
  simp only [stalled, Bool.and_eq_true, Bool.not_eq_true'] at h
  exact h.2

/-! ### be32 and its bytes -/

theorem be32_toNat (b0 b1 b2 b3 : Byte) :
    (be32 b0 b1 b2 b3).toNat = b0.toNat * 2 ^ 24 + b1.toNat * 2 ^ 16 + b2.toNat * 2 ^ 8 + b3.toNat := by
  have h1 := b1.isLt; have h2 := b2.isLt; have h3 := b3.isLt
  simp only [be32, BitVec.toNat_append]
  rw [← Nat.shiftLeft_add_eq_or_of_lt h3, ← Nat.shiftLeft_add_eq_or_of_lt h2, ← Nat.shiftLeft_add_eq_or_of_lt h1]
  simp only [Nat.shiftLeft_eq]
  omega

theorem topByte_toNat (L : BitVec 32) : (topByte L).toNat = L.toNat / 2 ^ 24 := by
  have h := L.isLt
  simp only [topByte, BitVec.extractLsb'_toNat, Nat.shiftRight_eq_div_pow]
  omega

theorem be32_beBytes (L : BitVec 32) :
    be32 (topByte L) (L.extractLsb' 16 8) (L.extractLsb' 8 8) (L.extractLsb' 0 8) = L := by
  have h := L.isLt
  apply BitVec.eq_of_toNat_eq
  rw [be32_toNat, topByte_toNat]
  simp only [BitVec.extractLsb'_toNat, Nat.shiftRight_eq_div_pow]
  omega

theorem topByte_be32 (b0 b1 b2 b3 : Byte) : topByte (be32 b0 b1 b2 b3) = b0 := by
  have h0 := b0.isLt; have h1 := b1.isLt; have h2 := b2.isLt; have h3 := b3.isLt
  apply BitVec.eq_of_toNat_eq
  rw [topByte_toNat, be32_toNat]
  omega

/-- Any byte of a value put together from four, by division of the number they make. -/
theorem byte_of_be32 (b0 b1 b2 b3 c : Byte) (k : Nat)
    (h : (b0.toNat * 2 ^ 24 + b1.toNat * 2 ^ 16 + b2.toNat * 2 ^ 8 + b3.toNat) / 2 ^ k % 2 ^ 8 = c.toNat) :
    (be32 b0 b1 b2 b3).extractLsb' k 8 = c := by
  apply BitVec.eq_of_toNat_eq
  rw [BitVec.extractLsb'_toNat, Nat.shiftRight_eq_div_pow, be32_toNat, h]

theorem beBytes_be32 (b0 b1 b2 b3 : Byte) : beBytes (be32 b0 b1 b2 b3) = [b0, b1, b2, b3] := by
  have h0 := b0.isLt; have h1 := b1.isLt; have h2 := b2.isLt; have h3 := b3.isLt
  rw [beBytes, topByte_be32, byte_of_be32 b0 b1 b2 b3 b1 16 (by omega),
    byte_of_be32 b0 b1 b2 b3 b2 8 (by omega), byte_of_be32 b0 b1 b2 b3 b3 0 (by omega)]

/-! ### What a step of Idle or Pulsing runs -/

/-- Every case of the decoder in Idle and Pulsing, with what the queue holds in it. -/
theorem decodeToken_cases (cmd : Instr) (q : List Byte) :
    (cmdMatch q = true ∧ decodeToken cmd q = .ok cmd) ∨
    (cmdMatch q = false ∧ hdrReady q = true ∧
      ∃ L, headerLength q = some L ∧ decodeToken cmd q = .ok (headerInstr L)) ∨
    (cmdMatch q = false ∧ hdrReady q = false ∧ stalled q = true ∧
      ∃ x, stallTail q = some x ∧ decodeToken cmd q = .ok (.stallP x)) ∨
    (cmdMatch q = false ∧ hdrReady q = false ∧ stalled q = false ∧
      decodeToken cmd q = .error (pendingReason q)) := by
  cases hc : cmdMatch q with
  | true => exact .inl ⟨rfl, by simp [decodeToken, hc]⟩
  | false =>
    cases hh : hdrReady q with
    | true =>
      obtain ⟨b0, b1, b2, b3, rest, rfl, -⟩ := hdrReady_iff.1 hh
      exact .inr (.inl ⟨rfl, rfl, be32 b0 b1 b2 b3, rfl, by simp [decodeToken, hc, hh, headerLength]⟩)
    | false =>
      cases hs : stalled q with
      | true =>
        obtain ⟨x0, x1, x2, x3, rest, rfl, -⟩ := stalled_iff.1 hs
        exact .inr (.inr (.inl ⟨rfl, rfl, rfl, be32 x0 x1 x2 x3, rfl,
          by simp only [decodeToken, hc, hh, hs, stallTail, headerLength]; rfl⟩))
      | false => exact .inr (.inr (.inr ⟨rfl, rfl, rfl, by simp [decodeToken, hc, hh, hs]⟩))

/-! ### Headers and stalled heads, byte by byte -/

theorem lengthValid_eq_true {L : BitVec 32} : lengthValid L = true ↔ 1 ≤ L.toNat ∧ L.toNat ≤ hw.capacity := by
  simp only [lengthValid, Bool.and_eq_true, decide_eq_true_eq]

theorem headerInstr_zero : headerInstr 0 = .frameZero := rfl

theorem headerInstr_valid {L : BitVec 32} (h : lengthValid L = true) : headerInstr L = .frame L := by
  rw [lengthValid_eq_true] at h
  rw [headerInstr, if_neg (by omega), if_neg (by omega)]

theorem headerInstr_big {L : BitVec 32} (h : hw.capacity < L.toNat) : headerInstr L = .frameBig L := by
  rw [headerInstr, if_neg (by omega), if_pos h]

theorem headerInstr_cases (L : BitVec 32) :
    (L = 0 ∧ headerInstr L = .frameZero) ∨ (lengthValid L = true ∧ headerInstr L = .frame L) ∨
      (hw.capacity < L.toNat ∧ headerInstr L = .frameBig L) := by
  by_cases h0 : L = 0
  · exact .inl ⟨h0, h0 ▸ headerInstr_zero⟩
  · have h1 : L.toNat ≠ 0 := fun e => h0 (BitVec.eq_of_toNat_eq e)
    by_cases h2 : hw.capacity < L.toNat
    · exact .inr (.inr ⟨h2, headerInstr_big h2⟩)
    · have hv : lengthValid L = true := lengthValid_eq_true.2 (by omega)
      exact .inr (.inl ⟨hv, headerInstr_valid hv⟩)

/-- Idle and Pulsing decode alike, but for what the command token means (R84). -/
theorem decode_tokens {c : Conn} (hc : c ≠ .receivingFrame) (q : List Byte) :
    ∃ cmd, (c = .idle ∧ cmd = .pulse ∨ c = .pulsing ∧ cmd = .pulseP) ∧ decode c q = decodeToken cmd q := by
  cases c with
  | idle => exact ⟨.pulse, .inl ⟨rfl, rfl⟩, rfl⟩
  | pulsing => exact ⟨.pulseP, .inr ⟨rfl, rfl⟩, rfl⟩
  | receivingFrame => exact absurd rfl hc

/-- A header at the head of the queue decodes by its length alone. -/
theorem decode_header {c : Conn} (hc : c ≠ .receivingFrame) {b0 : Byte} (h : b0 ≠ 0x50) (b1 b2 b3 : Byte)
    (rest : List Byte) : decode c (b0 :: b1 :: b2 :: b3 :: rest) = .ok (headerInstr (be32 b0 b1 b2 b3)) := by
  have hh : hdrReady (b0 :: b1 :: b2 :: b3 :: rest) = true := hdrReady_iff.2 ⟨_, _, _, _, _, rfl, h⟩
  obtain ⟨cmd, -, hd⟩ := decode_tokens hc (b0 :: b1 :: b2 :: b3 :: rest)
  rw [hd]
  simp [decodeToken, hh, cmdMatch_of_hdrReady hh, headerLength]

theorem decode_stalled {c : Conn} (hc : c ≠ .receivingFrame) {x0 x1 x2 x3 : Byte}
    (h : ¬(x0 = 0x55 ∧ x1 = 0x4C ∧ x2 = 0x53 ∧ x3 = 0x45)) (rest : List Byte) :
    decode c (0x50 :: x0 :: x1 :: x2 :: x3 :: rest) = .ok (.stallP (be32 x0 x1 x2 x3)) := by
  have hs : stalled (0x50 :: x0 :: x1 :: x2 :: x3 :: rest) = true := stalled_iff.2 ⟨_, _, _, _, _, rfl, h⟩
  obtain ⟨cmd, -, hd⟩ := decode_tokens hc (0x50 :: x0 :: x1 :: x2 :: x3 :: rest)
  rw [hd]
  simp only [decodeToken, cmdMatch_of_stalled hs, hdrReady_of_stalled hs, hs, stallTail, headerLength]
  rfl

/-- The bytes of a length, as the decoder meets them. -/
theorem beBytes_append (L : BitVec 32) (rest : List Byte) :
    beBytes L ++ rest =
      topByte L :: L.extractLsb' 16 8 :: L.extractLsb' 8 8 :: L.extractLsb' 0 8 :: rest := rfl

theorem headerLength_beBytes (L : BitVec 32) (rest : List Byte) : headerLength (beBytes L ++ rest) = some L := by
  rw [beBytes_append, headerLength, be32_beBytes]

/-- No valid length begins with the command token's first byte (R87). -/
theorem topByte_valid {L : BitVec 32} (h : lengthValid L = true) : topByte L ≠ 0x50 := by
  rw [lengthValid_eq_true, hw_capacity] at h
  intro e
  have ht := topByte_toNat L
  rw [e] at ht
  simp at ht
  omega

/-- A valid length fits the counters (R7: 2^`LEN_W` > `C`). -/
theorem toNat_setWidth_valid {L : BitVec 32} (h : L.toNat ≤ hw.capacity) : (L.setWidth hw.lenW).toNat = L.toNat := by
  rw [hw_capacity] at h
  rw [BitVec.toNat_setWidth, hw_lenW]
  exact Nat.mod_eq_of_lt (by omega)

/-- Counting a byte that the frame still lacks does not wrap (40_common_ops.md R120). -/
theorem toNat_add_one {a b : Len} (h : a.toNat < b.toNat) : (a + 1).toNat = a.toNat + 1 := by
  have hb := b.isLt
  have h1 : (1 : Len).toNat = 1 := rfl
  rw [BitVec.toNat_add, h1]
  exact Nat.mod_eq_of_lt (by omega)

/-- A head byte `CMD_FIRST` whose next four bytes x do not complete the command token is a stalled head (R88). -/
theorem stalled_head {x : BitVec 32} (h : hw.cmdFirst :: beBytes x ≠ hw.cmdToken) (rest : List Byte) :
    stalled (hw.cmdFirst :: beBytes x ++ rest) = true ∧ stallTail (hw.cmdFirst :: beBytes x ++ rest) = some x := by
  refine ⟨stalled_iff.2 ⟨_, _, _, _, rest, rfl, ?_⟩, headerLength_beBytes x rest⟩
  rintro ⟨h0, h1, h2, h3⟩
  exact h (by rw [beBytes, h0, h1, h2, h3]; rfl)

/-- R8: the panel's packed bitmap fits the Frame Buffer. -/
theorem panel_fits : rowStride panelW * panelH ≤ hw.capacity := by
  unfold panelW panelH panelSize
  split
  · assumption
  · simp

end Sys2Proof
end

