-- ==== Sys2Proof/Laws/Memory.lean ====
section
/-! SUPPORT. The Frame Buffer as a memory: read after write, and the canonical form is kept. -/

namespace Sys2Proof.Machine

/-- Right after reset the Frame Buffer is in its canonical form. -/
theorem reset_fb_wf : Memory.wf State.reset.fb = true := rfl

/-- So it is after any later start-up. -/
theorem powerOn_fb_wf (s : State) : Memory.wf (powerOn s).fb = true := rfl

theorem Memory.read_write_same (m : Memory) (i : Nat) (b : Byte) :
    Memory.read (Memory.write m i b) i = some b := by
  induction m with
  | nil => simp [Memory.write, Memory.read]
  | cons c rest ih =>
    obtain ⟨a, d⟩ := c
    simp only [Memory.write]
    split
    · simp [Memory.read]
    · split
      · simp [Memory.read]
      · have : a ≠ i := by omega
        simp [Memory.read, this, ih]

theorem Memory.read_write_other (m : Memory) (i j : Nat) (b : Byte) (h : j ≠ i) :
    Memory.read (Memory.write m i b) j = Memory.read m j := by
  have hij : i ≠ j := fun e => h e.symm
  induction m with
  | nil => simp [Memory.write, Memory.read, hij]
  | cons c rest ih =>
    obtain ⟨a, d⟩ := c
    simp only [Memory.write]
    split
    · simp [Memory.read, hij]
    · split
      · next e => subst e; simp [Memory.read, hij]
      · simp only [Memory.read]
        split
        · rfl
        · exact ih

theorem Memory.mem_write {m : Memory} {i : Nat} {b : Byte} {c : Host.Cell}
    (h : c ∈ Memory.write m i b) : c = (i, b) ∨ c ∈ m := by
  induction m with
  | nil => simpa [Memory.write] using h
  | cons d rest ih =>
    obtain ⟨a, e⟩ := d
    simp only [Memory.write] at h
    split at h
    · simpa using h
    · split at h
      · rcases List.mem_cons.1 h with h | h
        · exact .inl h
        · exact .inr (List.mem_cons_of_mem _ h)
      · rcases List.mem_cons.1 h with h | h
        · exact .inr (h ▸ List.mem_cons_self ..)
        · rcases ih h with h | h
          · exact .inl h
          · exact .inr (List.mem_cons_of_mem _ h)

theorem Memory.wf_cons {a : Nat} {b : Byte} {rest : Memory} :
    Memory.wf ((a, b) :: rest) = true ↔ (∀ c ∈ rest, a < c.1) ∧ Memory.wf rest = true := by
  simp [Memory.wf]

theorem Memory.wf_write {m : Memory} (i : Nat) (b : Byte) (h : Memory.wf m = true) :
    Memory.wf (Memory.write m i b) = true := by
  induction m with
  | nil => simp [Memory.write, Memory.wf]
  | cons d rest ih =>
    obtain ⟨a, e⟩ := d
    obtain ⟨hlt, hrest⟩ := Memory.wf_cons.1 h
    simp only [Memory.write]
    split
    · next hi =>
      refine Memory.wf_cons.2 ⟨fun c hc => ?_, h⟩
      rcases List.mem_cons.1 hc with rfl | hc
      · exact hi
      · exact Nat.lt_trans hi (hlt c hc)
    · split
      · next e' => subst e'; exact Memory.wf_cons.2 ⟨hlt, hrest⟩
      · refine Memory.wf_cons.2 ⟨fun c hc => ?_, ih hrest⟩
        rcases Memory.mem_write hc with rfl | hc
        · show a < i; omega
        · exact hlt c hc

/-- A range reads as a list exactly when the list is that long and each of its bytes is the one stored at its place. -/
theorem Memory.readRange_eq_some {m : Memory} {i n : Nat} {bs : List Byte} :
    Memory.readRange m i n = some bs ↔
      bs.length = n ∧ ∀ k (h : k < bs.length), Memory.read m (i + k) = some bs[k] := by
  induction n generalizing i bs with
  | zero =>
    simp only [Memory.readRange, Option.some.injEq]
    constructor
    · rintro rfl; simp
    · rintro ⟨h, -⟩; exact (List.eq_nil_of_length_eq_zero h).symm
  | succ n ih =>
    simp only [Memory.readRange]
    constructor
    · intro h
      split at h
      · next b tl hb htl =>
        obtain ⟨hl, hk⟩ := ih.1 htl
        obtain rfl := (Option.some.inj h).symm
        refine ⟨by simp [hl], fun k hk' => ?_⟩
        cases k with
        | zero => simpa using hb
        | succ k =>
          have := hk k (by simpa using hk')
          simpa [Nat.add_assoc, Nat.add_comm 1 k] using this
      · cases h
    · rintro ⟨hl, hk⟩
      cases bs with
      | nil => simp at hl
      | cons b tl =>
        have h0 := hk 0 (by simp)
        have htl : Memory.readRange m (i + 1) n = some tl := by
          refine ih.2 ⟨by simpa using hl, fun k hk' => ?_⟩
          have := hk (k + 1) (by simpa using hk')
          simpa [Nat.add_assoc, Nat.add_comm 1 k] using this
        simp only [Nat.add_zero, List.getElem_cons_zero] at h0
        simp [h0, htl]

/-- A range of bytes that all hold a value reads as some list. -/
theorem Memory.readRange_isSome {m : Memory} {i n : Nat}
    (h : ∀ k < n, (Memory.read m (i + k)).isSome = true) : ∃ bs, Memory.readRange m i n = some bs := by
  induction n generalizing i with
  | zero => exact ⟨[], rfl⟩
  | succ n ih =>
    obtain ⟨b, hb⟩ := Option.isSome_iff_exists.1 (h 0 (by omega))
    obtain ⟨bs, hbs⟩ := ih (i := i + 1) fun k hk => by
      have := h (k + 1) (by omega)
      rwa [show i + 1 + k = i + (k + 1) by omega]
    exact ⟨b :: bs, by simp only [Nat.add_zero] at hb; simp [Memory.readRange, hb, hbs]⟩

end Sys2Proof.Machine
end

