-- ==== Sys2Proof/Laws/State.lean ====
section
/-! SUPPORT. One lemma per field per update of the state, each true by unfolding. -/

namespace Sys2Proof.Machine

@[simp] theorem setConn_conn (c : Conn) (s : State) : (setConn c s).conn = c := rfl
@[simp] theorem setConn_expectedLen (c : Conn) (s : State) : (setConn c s).expectedLen = s.expectedLen := rfl
@[simp] theorem setConn_receivedCnt (c : Conn) (s : State) : (setConn c s).receivedCnt = s.receivedCnt := rfl
@[simp] theorem setConn_fb (c : Conn) (s : State) : (setConn c s).fb = s.fb := rfl
@[simp] theorem setConn_pulseToggle (c : Conn) (s : State) : (setConn c s).pulseToggle = s.pulseToggle := rfl
@[simp] theorem setConn_activityTs (c : Conn) (s : State) : (setConn c s).activityTs = s.activityTs := rfl
@[simp] theorem setConn_rxq (c : Conn) (s : State) : (setConn c s).rxq = s.rxq := rfl
@[simp] theorem setConn_txlog (c : Conn) (s : State) : (setConn c s).txlog = s.txlog := rfl
@[simp] theorem setConn_now (c : Conn) (s : State) : (setConn c s).now = s.now := rfl
@[simp] theorem setConn_dslog (c : Conn) (s : State) : (setConn c s).dslog = s.dslog := rfl
@[simp] theorem setConn_moreAnswers (c : Conn) (s : State) : (setConn c s).moreAnswers = s.moreAnswers := rfl
@[simp] theorem setConn_moreRest (c : Conn) (s : State) : (setConn c s).moreRest = s.moreRest := rfl
@[simp] theorem setConn_boots (c : Conn) (s : State) : (setConn c s).boots = s.boots := rfl
@[simp] theorem setConn_pending (c : Conn) (s : State) : (setConn c s).pending = s.pending := rfl

@[simp] theorem setExpectedLen_conn (n : Len) (s : State) : (setExpectedLen n s).conn = s.conn := rfl
@[simp] theorem setExpectedLen_expectedLen (n : Len) (s : State) : (setExpectedLen n s).expectedLen = n := rfl
@[simp] theorem setExpectedLen_receivedCnt (n : Len) (s : State) : (setExpectedLen n s).receivedCnt = s.receivedCnt := rfl
@[simp] theorem setExpectedLen_fb (n : Len) (s : State) : (setExpectedLen n s).fb = s.fb := rfl
@[simp] theorem setExpectedLen_pulseToggle (n : Len) (s : State) : (setExpectedLen n s).pulseToggle = s.pulseToggle := rfl
@[simp] theorem setExpectedLen_activityTs (n : Len) (s : State) : (setExpectedLen n s).activityTs = s.activityTs := rfl
@[simp] theorem setExpectedLen_rxq (n : Len) (s : State) : (setExpectedLen n s).rxq = s.rxq := rfl
@[simp] theorem setExpectedLen_txlog (n : Len) (s : State) : (setExpectedLen n s).txlog = s.txlog := rfl
@[simp] theorem setExpectedLen_now (n : Len) (s : State) : (setExpectedLen n s).now = s.now := rfl
@[simp] theorem setExpectedLen_dslog (n : Len) (s : State) : (setExpectedLen n s).dslog = s.dslog := rfl
@[simp] theorem setExpectedLen_moreAnswers (n : Len) (s : State) : (setExpectedLen n s).moreAnswers = s.moreAnswers := rfl
@[simp] theorem setExpectedLen_moreRest (n : Len) (s : State) : (setExpectedLen n s).moreRest = s.moreRest := rfl
@[simp] theorem setExpectedLen_boots (n : Len) (s : State) : (setExpectedLen n s).boots = s.boots := rfl
@[simp] theorem setExpectedLen_pending (n : Len) (s : State) : (setExpectedLen n s).pending = s.pending := rfl

@[simp] theorem setReceivedCnt_conn (n : Len) (s : State) : (setReceivedCnt n s).conn = s.conn := rfl
@[simp] theorem setReceivedCnt_expectedLen (n : Len) (s : State) : (setReceivedCnt n s).expectedLen = s.expectedLen := rfl
@[simp] theorem setReceivedCnt_receivedCnt (n : Len) (s : State) : (setReceivedCnt n s).receivedCnt = n := rfl
@[simp] theorem setReceivedCnt_fb (n : Len) (s : State) : (setReceivedCnt n s).fb = s.fb := rfl
@[simp] theorem setReceivedCnt_pulseToggle (n : Len) (s : State) : (setReceivedCnt n s).pulseToggle = s.pulseToggle := rfl
@[simp] theorem setReceivedCnt_activityTs (n : Len) (s : State) : (setReceivedCnt n s).activityTs = s.activityTs := rfl
@[simp] theorem setReceivedCnt_rxq (n : Len) (s : State) : (setReceivedCnt n s).rxq = s.rxq := rfl
@[simp] theorem setReceivedCnt_txlog (n : Len) (s : State) : (setReceivedCnt n s).txlog = s.txlog := rfl
@[simp] theorem setReceivedCnt_now (n : Len) (s : State) : (setReceivedCnt n s).now = s.now := rfl
@[simp] theorem setReceivedCnt_dslog (n : Len) (s : State) : (setReceivedCnt n s).dslog = s.dslog := rfl
@[simp] theorem setReceivedCnt_moreAnswers (n : Len) (s : State) : (setReceivedCnt n s).moreAnswers = s.moreAnswers := rfl
@[simp] theorem setReceivedCnt_moreRest (n : Len) (s : State) : (setReceivedCnt n s).moreRest = s.moreRest := rfl
@[simp] theorem setReceivedCnt_boots (n : Len) (s : State) : (setReceivedCnt n s).boots = s.boots := rfl
@[simp] theorem setReceivedCnt_pending (n : Len) (s : State) : (setReceivedCnt n s).pending = s.pending := rfl

@[simp] theorem setPulseToggle_conn (b : Bool) (s : State) : (setPulseToggle b s).conn = s.conn := rfl
@[simp] theorem setPulseToggle_expectedLen (b : Bool) (s : State) : (setPulseToggle b s).expectedLen = s.expectedLen := rfl
@[simp] theorem setPulseToggle_receivedCnt (b : Bool) (s : State) : (setPulseToggle b s).receivedCnt = s.receivedCnt := rfl
@[simp] theorem setPulseToggle_fb (b : Bool) (s : State) : (setPulseToggle b s).fb = s.fb := rfl
@[simp] theorem setPulseToggle_pulseToggle (b : Bool) (s : State) : (setPulseToggle b s).pulseToggle = b := rfl
@[simp] theorem setPulseToggle_activityTs (b : Bool) (s : State) : (setPulseToggle b s).activityTs = s.activityTs := rfl
@[simp] theorem setPulseToggle_rxq (b : Bool) (s : State) : (setPulseToggle b s).rxq = s.rxq := rfl
@[simp] theorem setPulseToggle_txlog (b : Bool) (s : State) : (setPulseToggle b s).txlog = s.txlog := rfl
@[simp] theorem setPulseToggle_now (b : Bool) (s : State) : (setPulseToggle b s).now = s.now := rfl
@[simp] theorem setPulseToggle_dslog (b : Bool) (s : State) : (setPulseToggle b s).dslog = s.dslog := rfl
@[simp] theorem setPulseToggle_moreAnswers (b : Bool) (s : State) : (setPulseToggle b s).moreAnswers = s.moreAnswers := rfl
@[simp] theorem setPulseToggle_moreRest (b : Bool) (s : State) : (setPulseToggle b s).moreRest = s.moreRest := rfl
@[simp] theorem setPulseToggle_boots (b : Bool) (s : State) : (setPulseToggle b s).boots = s.boots := rfl
@[simp] theorem setPulseToggle_pending (b : Bool) (s : State) : (setPulseToggle b s).pending = s.pending := rfl

@[simp] theorem setActivityTs_conn (t : Time) (s : State) : (setActivityTs t s).conn = s.conn := rfl
@[simp] theorem setActivityTs_expectedLen (t : Time) (s : State) : (setActivityTs t s).expectedLen = s.expectedLen := rfl
@[simp] theorem setActivityTs_receivedCnt (t : Time) (s : State) : (setActivityTs t s).receivedCnt = s.receivedCnt := rfl
@[simp] theorem setActivityTs_fb (t : Time) (s : State) : (setActivityTs t s).fb = s.fb := rfl
@[simp] theorem setActivityTs_pulseToggle (t : Time) (s : State) : (setActivityTs t s).pulseToggle = s.pulseToggle := rfl
@[simp] theorem setActivityTs_activityTs (t : Time) (s : State) : (setActivityTs t s).activityTs = t := rfl
@[simp] theorem setActivityTs_rxq (t : Time) (s : State) : (setActivityTs t s).rxq = s.rxq := rfl
@[simp] theorem setActivityTs_txlog (t : Time) (s : State) : (setActivityTs t s).txlog = s.txlog := rfl
@[simp] theorem setActivityTs_now (t : Time) (s : State) : (setActivityTs t s).now = s.now := rfl
@[simp] theorem setActivityTs_dslog (t : Time) (s : State) : (setActivityTs t s).dslog = s.dslog := rfl
@[simp] theorem setActivityTs_moreAnswers (t : Time) (s : State) : (setActivityTs t s).moreAnswers = s.moreAnswers := rfl
@[simp] theorem setActivityTs_moreRest (t : Time) (s : State) : (setActivityTs t s).moreRest = s.moreRest := rfl
@[simp] theorem setActivityTs_boots (t : Time) (s : State) : (setActivityTs t s).boots = s.boots := rfl
@[simp] theorem setActivityTs_pending (t : Time) (s : State) : (setActivityTs t s).pending = s.pending := rfl

@[simp] theorem setFb_conn (m : Memory) (s : State) : (setFb m s).conn = s.conn := rfl
@[simp] theorem setFb_expectedLen (m : Memory) (s : State) : (setFb m s).expectedLen = s.expectedLen := rfl
@[simp] theorem setFb_receivedCnt (m : Memory) (s : State) : (setFb m s).receivedCnt = s.receivedCnt := rfl
@[simp] theorem setFb_fb (m : Memory) (s : State) : (setFb m s).fb = m := rfl
@[simp] theorem setFb_pulseToggle (m : Memory) (s : State) : (setFb m s).pulseToggle = s.pulseToggle := rfl
@[simp] theorem setFb_activityTs (m : Memory) (s : State) : (setFb m s).activityTs = s.activityTs := rfl
@[simp] theorem setFb_rxq (m : Memory) (s : State) : (setFb m s).rxq = s.rxq := rfl
@[simp] theorem setFb_txlog (m : Memory) (s : State) : (setFb m s).txlog = s.txlog := rfl
@[simp] theorem setFb_now (m : Memory) (s : State) : (setFb m s).now = s.now := rfl
@[simp] theorem setFb_dslog (m : Memory) (s : State) : (setFb m s).dslog = s.dslog := rfl
@[simp] theorem setFb_moreAnswers (m : Memory) (s : State) : (setFb m s).moreAnswers = s.moreAnswers := rfl
@[simp] theorem setFb_moreRest (m : Memory) (s : State) : (setFb m s).moreRest = s.moreRest := rfl
@[simp] theorem setFb_boots (m : Memory) (s : State) : (setFb m s).boots = s.boots := rfl
@[simp] theorem setFb_pending (m : Memory) (s : State) : (setFb m s).pending = s.pending := rfl

@[simp] theorem setRxq_conn (q : List Byte) (s : State) : (setRxq q s).conn = s.conn := rfl
@[simp] theorem setRxq_expectedLen (q : List Byte) (s : State) : (setRxq q s).expectedLen = s.expectedLen := rfl
@[simp] theorem setRxq_receivedCnt (q : List Byte) (s : State) : (setRxq q s).receivedCnt = s.receivedCnt := rfl
@[simp] theorem setRxq_fb (q : List Byte) (s : State) : (setRxq q s).fb = s.fb := rfl
@[simp] theorem setRxq_pulseToggle (q : List Byte) (s : State) : (setRxq q s).pulseToggle = s.pulseToggle := rfl
@[simp] theorem setRxq_activityTs (q : List Byte) (s : State) : (setRxq q s).activityTs = s.activityTs := rfl
@[simp] theorem setRxq_rxq (q : List Byte) (s : State) : (setRxq q s).rxq = q := rfl
@[simp] theorem setRxq_txlog (q : List Byte) (s : State) : (setRxq q s).txlog = s.txlog := rfl
@[simp] theorem setRxq_now (q : List Byte) (s : State) : (setRxq q s).now = s.now := rfl
@[simp] theorem setRxq_dslog (q : List Byte) (s : State) : (setRxq q s).dslog = s.dslog := rfl
@[simp] theorem setRxq_moreAnswers (q : List Byte) (s : State) : (setRxq q s).moreAnswers = s.moreAnswers := rfl
@[simp] theorem setRxq_moreRest (q : List Byte) (s : State) : (setRxq q s).moreRest = s.moreRest := rfl
@[simp] theorem setRxq_boots (q : List Byte) (s : State) : (setRxq q s).boots = s.boots := rfl
@[simp] theorem setRxq_pending (q : List Byte) (s : State) : (setRxq q s).pending = s.pending := rfl

@[simp] theorem setMoreAnswers_conn (as : List Bool) (s : State) : (setMoreAnswers as s).conn = s.conn := rfl
@[simp] theorem setMoreAnswers_expectedLen (as : List Bool) (s : State) : (setMoreAnswers as s).expectedLen = s.expectedLen := rfl
@[simp] theorem setMoreAnswers_receivedCnt (as : List Bool) (s : State) : (setMoreAnswers as s).receivedCnt = s.receivedCnt := rfl
@[simp] theorem setMoreAnswers_fb (as : List Bool) (s : State) : (setMoreAnswers as s).fb = s.fb := rfl
@[simp] theorem setMoreAnswers_pulseToggle (as : List Bool) (s : State) : (setMoreAnswers as s).pulseToggle = s.pulseToggle := rfl
@[simp] theorem setMoreAnswers_activityTs (as : List Bool) (s : State) : (setMoreAnswers as s).activityTs = s.activityTs := rfl
@[simp] theorem setMoreAnswers_rxq (as : List Bool) (s : State) : (setMoreAnswers as s).rxq = s.rxq := rfl
@[simp] theorem setMoreAnswers_txlog (as : List Bool) (s : State) : (setMoreAnswers as s).txlog = s.txlog := rfl
@[simp] theorem setMoreAnswers_now (as : List Bool) (s : State) : (setMoreAnswers as s).now = s.now := rfl
@[simp] theorem setMoreAnswers_dslog (as : List Bool) (s : State) : (setMoreAnswers as s).dslog = s.dslog := rfl
@[simp] theorem setMoreAnswers_moreAnswers (as : List Bool) (s : State) : (setMoreAnswers as s).moreAnswers = as := rfl
@[simp] theorem setMoreAnswers_moreRest (as : List Bool) (s : State) : (setMoreAnswers as s).moreRest = s.moreRest := rfl
@[simp] theorem setMoreAnswers_boots (as : List Bool) (s : State) : (setMoreAnswers as s).boots = s.boots := rfl
@[simp] theorem setMoreAnswers_pending (as : List Bool) (s : State) : (setMoreAnswers as s).pending = s.pending := rfl

@[simp] theorem clearCounters_conn (s : State) : (clearCounters s).conn = s.conn := rfl
@[simp] theorem clearCounters_expectedLen (s : State) : (clearCounters s).expectedLen = 0 := rfl
@[simp] theorem clearCounters_receivedCnt (s : State) : (clearCounters s).receivedCnt = 0 := rfl
@[simp] theorem clearCounters_fb (s : State) : (clearCounters s).fb = s.fb := rfl
@[simp] theorem clearCounters_pulseToggle (s : State) : (clearCounters s).pulseToggle = s.pulseToggle := rfl
@[simp] theorem clearCounters_activityTs (s : State) : (clearCounters s).activityTs = s.activityTs := rfl
@[simp] theorem clearCounters_rxq (s : State) : (clearCounters s).rxq = s.rxq := rfl
@[simp] theorem clearCounters_txlog (s : State) : (clearCounters s).txlog = s.txlog := rfl
@[simp] theorem clearCounters_now (s : State) : (clearCounters s).now = s.now := rfl
@[simp] theorem clearCounters_dslog (s : State) : (clearCounters s).dslog = s.dslog := rfl
@[simp] theorem clearCounters_moreAnswers (s : State) : (clearCounters s).moreAnswers = s.moreAnswers := rfl
@[simp] theorem clearCounters_moreRest (s : State) : (clearCounters s).moreRest = s.moreRest := rfl
@[simp] theorem clearCounters_boots (s : State) : (clearCounters s).boots = s.boots := rfl
@[simp] theorem clearCounters_pending (s : State) : (clearCounters s).pending = s.pending := rfl

@[simp] theorem txWrite_conn (bytes : List Byte) (s : State) : (txWrite bytes s).conn = s.conn := rfl
@[simp] theorem txWrite_expectedLen (bytes : List Byte) (s : State) : (txWrite bytes s).expectedLen = s.expectedLen := rfl
@[simp] theorem txWrite_receivedCnt (bytes : List Byte) (s : State) : (txWrite bytes s).receivedCnt = s.receivedCnt := rfl
@[simp] theorem txWrite_fb (bytes : List Byte) (s : State) : (txWrite bytes s).fb = s.fb := rfl
@[simp] theorem txWrite_pulseToggle (bytes : List Byte) (s : State) : (txWrite bytes s).pulseToggle = s.pulseToggle := rfl
@[simp] theorem txWrite_activityTs (bytes : List Byte) (s : State) : (txWrite bytes s).activityTs = s.activityTs := rfl
@[simp] theorem txWrite_rxq (bytes : List Byte) (s : State) : (txWrite bytes s).rxq = s.rxq := rfl
@[simp] theorem txWrite_txlog (bytes : List Byte) (s : State) : (txWrite bytes s).txlog = s.txlog ++ bytes := rfl
@[simp] theorem txWrite_now (bytes : List Byte) (s : State) : (txWrite bytes s).now = s.now := rfl
@[simp] theorem txWrite_dslog (bytes : List Byte) (s : State) : (txWrite bytes s).dslog = s.dslog := rfl
@[simp] theorem txWrite_moreAnswers (bytes : List Byte) (s : State) : (txWrite bytes s).moreAnswers = s.moreAnswers := rfl
@[simp] theorem txWrite_moreRest (bytes : List Byte) (s : State) : (txWrite bytes s).moreRest = s.moreRest := rfl
@[simp] theorem txWrite_boots (bytes : List Byte) (s : State) : (txWrite bytes s).boots = s.boots := rfl
@[simp] theorem txWrite_pending (bytes : List Byte) (s : State) : (txWrite bytes s).pending = s.pending := rfl

@[simp] theorem emitStatus_conn (st : Status) (s : State) : (emitStatus st s).conn = s.conn := rfl
@[simp] theorem emitStatus_expectedLen (st : Status) (s : State) : (emitStatus st s).expectedLen = s.expectedLen := rfl
@[simp] theorem emitStatus_receivedCnt (st : Status) (s : State) : (emitStatus st s).receivedCnt = s.receivedCnt := rfl
@[simp] theorem emitStatus_fb (st : Status) (s : State) : (emitStatus st s).fb = s.fb := rfl
@[simp] theorem emitStatus_pulseToggle (st : Status) (s : State) : (emitStatus st s).pulseToggle = s.pulseToggle := rfl
@[simp] theorem emitStatus_activityTs (st : Status) (s : State) : (emitStatus st s).activityTs = s.activityTs := rfl
@[simp] theorem emitStatus_rxq (st : Status) (s : State) : (emitStatus st s).rxq = s.rxq := rfl
@[simp] theorem emitStatus_txlog (st : Status) (s : State) : (emitStatus st s).txlog = s.txlog ++ statusLine st := rfl
@[simp] theorem emitStatus_now (st : Status) (s : State) : (emitStatus st s).now = s.now := rfl
@[simp] theorem emitStatus_dslog (st : Status) (s : State) : (emitStatus st s).dslog = s.dslog := rfl
@[simp] theorem emitStatus_moreAnswers (st : Status) (s : State) : (emitStatus st s).moreAnswers = s.moreAnswers := rfl
@[simp] theorem emitStatus_moreRest (st : Status) (s : State) : (emitStatus st s).moreRest = s.moreRest := rfl
@[simp] theorem emitStatus_boots (st : Status) (s : State) : (emitStatus st s).boots = s.boots := rfl
@[simp] theorem emitStatus_pending (st : Status) (s : State) : (emitStatus st s).pending = s.pending := rfl

@[simp] theorem flushInput_conn (s : State) : (flushInput s).conn = s.conn := rfl
@[simp] theorem flushInput_expectedLen (s : State) : (flushInput s).expectedLen = s.expectedLen := rfl
@[simp] theorem flushInput_receivedCnt (s : State) : (flushInput s).receivedCnt = s.receivedCnt := rfl
@[simp] theorem flushInput_fb (s : State) : (flushInput s).fb = s.fb := rfl
@[simp] theorem flushInput_pulseToggle (s : State) : (flushInput s).pulseToggle = s.pulseToggle := rfl
@[simp] theorem flushInput_activityTs (s : State) : (flushInput s).activityTs = s.activityTs := rfl
@[simp] theorem flushInput_rxq (s : State) : (flushInput s).rxq = [] := rfl
@[simp] theorem flushInput_txlog (s : State) : (flushInput s).txlog = s.txlog := rfl
@[simp] theorem flushInput_now (s : State) : (flushInput s).now = s.now := rfl
@[simp] theorem flushInput_dslog (s : State) : (flushInput s).dslog = s.dslog := rfl
@[simp] theorem flushInput_moreAnswers (s : State) : (flushInput s).moreAnswers = s.moreAnswers := rfl
@[simp] theorem flushInput_moreRest (s : State) : (flushInput s).moreRest = s.moreRest := rfl
@[simp] theorem flushInput_boots (s : State) : (flushInput s).boots = s.boots := rfl
@[simp] theorem flushInput_pending (s : State) : (flushInput s).pending = s.pending := rfl

@[simp] theorem takeException_conn (e : Exc) (s : State) : (takeException e s).conn = .idle := rfl
@[simp] theorem takeException_expectedLen (e : Exc) (s : State) : (takeException e s).expectedLen = 0 := rfl
@[simp] theorem takeException_receivedCnt (e : Exc) (s : State) : (takeException e s).receivedCnt = 0 := rfl
@[simp] theorem takeException_fb (e : Exc) (s : State) : (takeException e s).fb = s.fb := rfl
@[simp] theorem takeException_pulseToggle (e : Exc) (s : State) : (takeException e s).pulseToggle = s.pulseToggle := rfl
@[simp] theorem takeException_activityTs (e : Exc) (s : State) : (takeException e s).activityTs = s.activityTs := rfl
@[simp] theorem takeException_rxq (e : Exc) (s : State) : (takeException e s).rxq = [] := rfl
@[simp] theorem takeException_txlog (e : Exc) (s : State) : (takeException e s).txlog = s.txlog ++ statusLine (excStatus e) := rfl
@[simp] theorem takeException_now (e : Exc) (s : State) : (takeException e s).now = s.now := rfl
@[simp] theorem takeException_dslog (e : Exc) (s : State) : (takeException e s).dslog = s.dslog := rfl
@[simp] theorem takeException_moreAnswers (e : Exc) (s : State) : (takeException e s).moreAnswers = s.moreAnswers := rfl
@[simp] theorem takeException_moreRest (e : Exc) (s : State) : (takeException e s).moreRest = s.moreRest := rfl
@[simp] theorem takeException_boots (e : Exc) (s : State) : (takeException e s).boots = s.boots := rfl
@[simp] theorem takeException_pending (e : Exc) (s : State) : (takeException e s).pending = s.pending := rfl

@[simp] theorem dsCalls_conn (cs : List DsCall) (s : State) : (dsCalls cs s).conn = s.conn := rfl
@[simp] theorem dsCalls_expectedLen (cs : List DsCall) (s : State) : (dsCalls cs s).expectedLen = s.expectedLen := rfl
@[simp] theorem dsCalls_receivedCnt (cs : List DsCall) (s : State) : (dsCalls cs s).receivedCnt = s.receivedCnt := rfl
@[simp] theorem dsCalls_fb (cs : List DsCall) (s : State) : (dsCalls cs s).fb = s.fb := rfl
@[simp] theorem dsCalls_pulseToggle (cs : List DsCall) (s : State) : (dsCalls cs s).pulseToggle = s.pulseToggle := rfl
@[simp] theorem dsCalls_activityTs (cs : List DsCall) (s : State) : (dsCalls cs s).activityTs = s.activityTs := rfl
@[simp] theorem dsCalls_rxq (cs : List DsCall) (s : State) : (dsCalls cs s).rxq = s.rxq := rfl
@[simp] theorem dsCalls_txlog (cs : List DsCall) (s : State) : (dsCalls cs s).txlog = s.txlog := rfl
@[simp] theorem dsCalls_now (cs : List DsCall) (s : State) : (dsCalls cs s).now = s.now := rfl
@[simp] theorem dsCalls_dslog (cs : List DsCall) (s : State) : (dsCalls cs s).dslog = s.dslog ++ cs := rfl
@[simp] theorem dsCalls_moreAnswers (cs : List DsCall) (s : State) : (dsCalls cs s).moreAnswers = s.moreAnswers := rfl
@[simp] theorem dsCalls_moreRest (cs : List DsCall) (s : State) : (dsCalls cs s).moreRest = s.moreRest := rfl
@[simp] theorem dsCalls_boots (cs : List DsCall) (s : State) : (dsCalls cs s).boots = s.boots := rfl
@[simp] theorem dsCalls_pending (cs : List DsCall) (s : State) : (dsCalls cs s).pending = s.pending := rfl

@[simp] theorem headerAccept_conn (L : BitVec 32) (t : Time) (s : State) : (headerAccept L t s).conn = .receivingFrame := rfl
@[simp] theorem headerAccept_expectedLen (L : BitVec 32) (t : Time) (s : State) : (headerAccept L t s).expectedLen = L.setWidth hw.lenW := rfl
@[simp] theorem headerAccept_receivedCnt (L : BitVec 32) (t : Time) (s : State) : (headerAccept L t s).receivedCnt = 0 := rfl
@[simp] theorem headerAccept_fb (L : BitVec 32) (t : Time) (s : State) : (headerAccept L t s).fb = s.fb := rfl
@[simp] theorem headerAccept_pulseToggle (L : BitVec 32) (t : Time) (s : State) : (headerAccept L t s).pulseToggle = s.pulseToggle := rfl
@[simp] theorem headerAccept_activityTs (L : BitVec 32) (t : Time) (s : State) : (headerAccept L t s).activityTs = t := rfl
@[simp] theorem headerAccept_rxq (L : BitVec 32) (t : Time) (s : State) : (headerAccept L t s).rxq = s.rxq := rfl
@[simp] theorem headerAccept_txlog (L : BitVec 32) (t : Time) (s : State) : (headerAccept L t s).txlog = s.txlog ++ statusLine .ready := rfl
@[simp] theorem headerAccept_now (L : BitVec 32) (t : Time) (s : State) : (headerAccept L t s).now = s.now := rfl
@[simp] theorem headerAccept_dslog (L : BitVec 32) (t : Time) (s : State) : (headerAccept L t s).dslog = s.dslog := rfl
@[simp] theorem headerAccept_moreAnswers (L : BitVec 32) (t : Time) (s : State) : (headerAccept L t s).moreAnswers = s.moreAnswers := rfl
@[simp] theorem headerAccept_moreRest (L : BitVec 32) (t : Time) (s : State) : (headerAccept L t s).moreRest = s.moreRest := rfl
@[simp] theorem headerAccept_boots (L : BitVec 32) (t : Time) (s : State) : (headerAccept L t s).boots = s.boots := rfl
@[simp] theorem headerAccept_pending (L : BitVec 32) (t : Time) (s : State) : (headerAccept L t s).pending = s.pending := rfl

@[simp] theorem headerReject_conn (s : State) : (headerReject s).conn = .idle := rfl
@[simp] theorem headerReject_expectedLen (s : State) : (headerReject s).expectedLen = 0 := rfl
@[simp] theorem headerReject_receivedCnt (s : State) : (headerReject s).receivedCnt = 0 := rfl
@[simp] theorem headerReject_fb (s : State) : (headerReject s).fb = s.fb := rfl
@[simp] theorem headerReject_pulseToggle (s : State) : (headerReject s).pulseToggle = s.pulseToggle := rfl
@[simp] theorem headerReject_activityTs (s : State) : (headerReject s).activityTs = s.activityTs := rfl
@[simp] theorem headerReject_rxq (s : State) : (headerReject s).rxq = [] := rfl
@[simp] theorem headerReject_txlog (s : State) : (headerReject s).txlog = s.txlog ++ statusLine .errLen := rfl
@[simp] theorem headerReject_now (s : State) : (headerReject s).now = s.now := rfl
@[simp] theorem headerReject_dslog (s : State) : (headerReject s).dslog = s.dslog := rfl
@[simp] theorem headerReject_moreAnswers (s : State) : (headerReject s).moreAnswers = s.moreAnswers := rfl
@[simp] theorem headerReject_moreRest (s : State) : (headerReject s).moreRest = s.moreRest := rfl
@[simp] theorem headerReject_boots (s : State) : (headerReject s).boots = s.boots := rfl
@[simp] theorem headerReject_pending (s : State) : (headerReject s).pending = s.pending := rfl

@[simp] theorem flipToggle_conn (s : State) : (flipToggle s).conn = s.conn := rfl
@[simp] theorem flipToggle_expectedLen (s : State) : (flipToggle s).expectedLen = s.expectedLen := rfl
@[simp] theorem flipToggle_receivedCnt (s : State) : (flipToggle s).receivedCnt = s.receivedCnt := rfl
@[simp] theorem flipToggle_fb (s : State) : (flipToggle s).fb = s.fb := rfl
@[simp] theorem flipToggle_pulseToggle (s : State) : (flipToggle s).pulseToggle = !s.pulseToggle := rfl
@[simp] theorem flipToggle_activityTs (s : State) : (flipToggle s).activityTs = s.activityTs := rfl
@[simp] theorem flipToggle_rxq (s : State) : (flipToggle s).rxq = s.rxq := rfl
@[simp] theorem flipToggle_txlog (s : State) : (flipToggle s).txlog = s.txlog := rfl
@[simp] theorem flipToggle_now (s : State) : (flipToggle s).now = s.now := rfl
@[simp] theorem flipToggle_dslog (s : State) : (flipToggle s).dslog = s.dslog := rfl
@[simp] theorem flipToggle_moreAnswers (s : State) : (flipToggle s).moreAnswers = s.moreAnswers := rfl
@[simp] theorem flipToggle_moreRest (s : State) : (flipToggle s).moreRest = s.moreRest := rfl
@[simp] theorem flipToggle_boots (s : State) : (flipToggle s).boots = s.boots := rfl
@[simp] theorem flipToggle_pending (s : State) : (flipToggle s).pending = s.pending := rfl

@[simp] theorem powerOn_conn (s : State) : (powerOn s).conn = .idle := rfl
@[simp] theorem powerOn_expectedLen (s : State) : (powerOn s).expectedLen = 0 := rfl
@[simp] theorem powerOn_receivedCnt (s : State) : (powerOn s).receivedCnt = 0 := rfl
@[simp] theorem powerOn_fb (s : State) : (powerOn s).fb = [] := rfl
@[simp] theorem powerOn_pulseToggle (s : State) : (powerOn s).pulseToggle = Config.bootToggle s.boots := rfl
@[simp] theorem powerOn_activityTs (s : State) : (powerOn s).activityTs = Config.bootActivityTs hw.timeW s.boots := rfl
@[simp] theorem powerOn_rxq (s : State) : (powerOn s).rxq = s.rxq := rfl
@[simp] theorem powerOn_txlog (s : State) : (powerOn s).txlog = s.txlog := rfl
@[simp] theorem powerOn_now (s : State) : (powerOn s).now = s.now := rfl
@[simp] theorem powerOn_dslog (s : State) : (powerOn s).dslog = s.dslog := rfl
@[simp] theorem powerOn_moreAnswers (s : State) : (powerOn s).moreAnswers = s.moreAnswers := rfl
@[simp] theorem powerOn_moreRest (s : State) : (powerOn s).moreRest = s.moreRest := rfl
@[simp] theorem powerOn_boots (s : State) : (powerOn s).boots = s.boots + 1 := rfl
@[simp] theorem powerOn_pending (s : State) : (powerOn s).pending = s.pending := rfl

@[simp] theorem hostSend_conn (bytes : List Byte) (s : State) : (hostSend bytes s).conn = s.conn := rfl
@[simp] theorem hostSend_expectedLen (bytes : List Byte) (s : State) : (hostSend bytes s).expectedLen = s.expectedLen := rfl
@[simp] theorem hostSend_receivedCnt (bytes : List Byte) (s : State) : (hostSend bytes s).receivedCnt = s.receivedCnt := rfl
@[simp] theorem hostSend_fb (bytes : List Byte) (s : State) : (hostSend bytes s).fb = s.fb := rfl
@[simp] theorem hostSend_pulseToggle (bytes : List Byte) (s : State) : (hostSend bytes s).pulseToggle = s.pulseToggle := rfl
@[simp] theorem hostSend_activityTs (bytes : List Byte) (s : State) : (hostSend bytes s).activityTs = s.activityTs := rfl
@[simp] theorem hostSend_rxq (bytes : List Byte) (s : State) : (hostSend bytes s).rxq = s.rxq ++ bytes := rfl
@[simp] theorem hostSend_txlog (bytes : List Byte) (s : State) : (hostSend bytes s).txlog = s.txlog := rfl
@[simp] theorem hostSend_now (bytes : List Byte) (s : State) : (hostSend bytes s).now = s.now := rfl
@[simp] theorem hostSend_dslog (bytes : List Byte) (s : State) : (hostSend bytes s).dslog = s.dslog := rfl
@[simp] theorem hostSend_moreAnswers (bytes : List Byte) (s : State) : (hostSend bytes s).moreAnswers = s.moreAnswers := rfl
@[simp] theorem hostSend_moreRest (bytes : List Byte) (s : State) : (hostSend bytes s).moreRest = s.moreRest := rfl
@[simp] theorem hostSend_boots (bytes : List Byte) (s : State) : (hostSend bytes s).boots = s.boots := rfl
@[simp] theorem hostSend_pending (bytes : List Byte) (s : State) : (hostSend bytes s).pending = s.pending := rfl

@[simp] theorem advance_conn (ms : Nat) (s : State) : (advance ms s).conn = s.conn := rfl
@[simp] theorem advance_expectedLen (ms : Nat) (s : State) : (advance ms s).expectedLen = s.expectedLen := rfl
@[simp] theorem advance_receivedCnt (ms : Nat) (s : State) : (advance ms s).receivedCnt = s.receivedCnt := rfl
@[simp] theorem advance_fb (ms : Nat) (s : State) : (advance ms s).fb = s.fb := rfl
@[simp] theorem advance_pulseToggle (ms : Nat) (s : State) : (advance ms s).pulseToggle = s.pulseToggle := rfl
@[simp] theorem advance_activityTs (ms : Nat) (s : State) : (advance ms s).activityTs = s.activityTs := rfl
@[simp] theorem advance_rxq (ms : Nat) (s : State) : (advance ms s).rxq = s.rxq := rfl
@[simp] theorem advance_txlog (ms : Nat) (s : State) : (advance ms s).txlog = s.txlog := rfl
@[simp] theorem advance_now (ms : Nat) (s : State) : (advance ms s).now = s.now + BitVec.ofNat hw.timeW ms := rfl
@[simp] theorem advance_dslog (ms : Nat) (s : State) : (advance ms s).dslog = s.dslog := rfl
@[simp] theorem advance_moreAnswers (ms : Nat) (s : State) : (advance ms s).moreAnswers = s.moreAnswers := rfl
@[simp] theorem advance_moreRest (ms : Nat) (s : State) : (advance ms s).moreRest = s.moreRest := rfl
@[simp] theorem advance_boots (ms : Nat) (s : State) : (advance ms s).boots = s.boots := rfl
@[simp] theorem advance_pending (ms : Nat) (s : State) : (advance ms s).pending = s.pending := rfl

@[simp] theorem setPending_conn (ms : List Move) (s : State) : (setPending ms s).conn = s.conn := rfl
@[simp] theorem setPending_expectedLen (ms : List Move) (s : State) : (setPending ms s).expectedLen = s.expectedLen := rfl
@[simp] theorem setPending_receivedCnt (ms : List Move) (s : State) : (setPending ms s).receivedCnt = s.receivedCnt := rfl
@[simp] theorem setPending_fb (ms : List Move) (s : State) : (setPending ms s).fb = s.fb := rfl
@[simp] theorem setPending_pulseToggle (ms : List Move) (s : State) : (setPending ms s).pulseToggle = s.pulseToggle := rfl
@[simp] theorem setPending_activityTs (ms : List Move) (s : State) : (setPending ms s).activityTs = s.activityTs := rfl
@[simp] theorem setPending_rxq (ms : List Move) (s : State) : (setPending ms s).rxq = s.rxq := rfl
@[simp] theorem setPending_txlog (ms : List Move) (s : State) : (setPending ms s).txlog = s.txlog := rfl
@[simp] theorem setPending_now (ms : List Move) (s : State) : (setPending ms s).now = s.now := rfl
@[simp] theorem setPending_dslog (ms : List Move) (s : State) : (setPending ms s).dslog = s.dslog := rfl
@[simp] theorem setPending_moreAnswers (ms : List Move) (s : State) : (setPending ms s).moreAnswers = s.moreAnswers := rfl
@[simp] theorem setPending_moreRest (ms : List Move) (s : State) : (setPending ms s).moreRest = s.moreRest := rfl
@[simp] theorem setPending_boots (ms : List Move) (s : State) : (setPending ms s).boots = s.boots := rfl
@[simp] theorem setPending_pending (ms : List Move) (s : State) : (setPending ms s).pending = ms := rfl

end Sys2Proof.Machine
end

