-- ==== Sys2Proof/Laws/Ops.lean ====
section
/-! SUPPORT. For each shared operation, everything it can do when it answers a next state. -/

namespace Sys2Proof.Machine

/-! ### Sequencing and conditions -/

@[simp] theorem andThen_next (s : State) (k : State → Out) : andThen (.next s) k = k s := rfl

theorem andThen_eq_next {o : Out} {k : State → Out} {s' : State} (h : andThen o k = .next s') :
    ∃ s, o = .next s ∧ k s = .next s' := by
  cases o with
  | next s => exact ⟨s, rfl, h⟩
  | fault r => cases h
  | refused r => cases h

theorem andThen_eq_fault {o : Out} {k : State → Out} {r : Fault} (h : andThen o k = .fault r) :
    o = .fault r ∨ ∃ s, o = .next s ∧ k s = .fault r := by
  cases o with
  | next s => exact .inr ⟨s, rfl, h⟩
  | fault r' => exact .inl h
  | refused r => cases h

theorem whenSelected_eq_next {cond : Bool} {o : Out} {s' : State} (h : whenSelected cond o = .next s') :
    cond = true ∧ o = .next s' := by
  unfold whenSelected at h
  split at h
  · next hc => exact ⟨hc, h⟩
  · cases h

theorem whenSelected_true {cond : Bool} (o : Out) (h : cond = true) : whenSelected cond o = o := by
  simp [whenSelected, h]

theorem whenSelected_false {cond : Bool} (o : Out) (h : cond = false) :
    whenSelected cond o = .fault .notSelected := by
  simp [whenSelected, h]

/-! ### The streams and the Frame Buffer -/

theorem rxPopN_eq_next {n : Nat} {s s' : State} (h : rxPopN n s = .next s') :
    n ≤ s.rxq.length ∧ s' = setRxq (s.rxq.drop n) s := by
  unfold rxPopN rxAvail at h
  split at h
  · next hn => cases h; exact ⟨hn, rfl⟩
  · cases h

theorem rxPopN_next {n : Nat} {s : State} (h : n ≤ s.rxq.length) :
    rxPopN n s = .next (setRxq (s.rxq.drop n) s) := by
  simp [rxPopN, rxAvail, h]

theorem memWrite_eq_next {i : Nat} {b : Byte} {s s' : State} (h : memWrite i b s = .next s') :
    i < hw.capacity ∧ s' = setFb (Memory.write s.fb i b) s := by
  unfold memWrite at h
  split at h
  · next hi => cases h; exact ⟨hi, rfl⟩
  · cases h

theorem memWrite_next {i : Nat} {b : Byte} {s : State} (h : i < hw.capacity) :
    memWrite i b s = .next (setFb (Memory.write s.fb i b) s) := by
  simp only [memWrite, h, if_true]

/-! ### The paged loop -/

/-- The loop ends exactly when some answer is false. -/
theorem pageLoop_isSome_iff (body : List DsCall) (rest : Bool) (answers : List Bool) :
    (pageLoop body rest answers).isSome = true ↔ rest = false ∨ false ∈ answers := by
  induction answers with
  | nil => cases rest <;> simp [pageLoop]
  | cons a as ih =>
    cases a with
    | false => simp [pageLoop]
    | true =>
      simp only [pageLoop, if_true]
      cases h : pageLoop body rest as with
      | none => simpa [h] using ih
      | some p => simpa [h] using ih

/-- What the loop does when it ends: k pages answered true, then one answered false. -/
theorem pageLoop_eq_some {body : List DsCall} {rest : Bool} {answers left : List Bool} {cs : List DsCall}
    (h : pageLoop body rest answers = some (cs, left)) :
    ∃ k, cs = (List.replicate k (body ++ [.isMoreToRender true])).flatten ++ body ++ [.isMoreToRender false] ∧
      (answers = List.replicate k true ++ false :: left ∨
        (answers = List.replicate k true ∧ left = [] ∧ rest = false)) := by
  induction answers generalizing cs left with
  | nil =>
    cases rest with
    | true => simp [pageLoop] at h
    | false =>
      simp only [pageLoop, Bool.false_eq_true, if_false, Option.some.injEq, Prod.mk.injEq] at h
      obtain ⟨rfl, rfl⟩ := h
      exact ⟨0, by simp, .inr ⟨rfl, rfl, rfl⟩⟩
  | cons a as ih =>
    cases a with
    | false =>
      simp only [pageLoop, Bool.false_eq_true, if_false, Option.some.injEq, Prod.mk.injEq] at h
      obtain ⟨rfl, rfl⟩ := h
      exact ⟨0, by simp, .inl rfl⟩
    | true =>
      simp only [pageLoop, if_true] at h
      cases hp : pageLoop body rest as with
      | none => simp [hp] at h
      | some p =>
        obtain ⟨cs', left'⟩ := p
        simp only [hp, Option.some.injEq, Prod.mk.injEq] at h
        obtain ⟨rfl, rfl⟩ := h
        obtain ⟨k, rfl, hk⟩ := ih hp
        refine ⟨k + 1, by simp [List.replicate_succ], ?_⟩
        rcases hk with rfl | ⟨rfl, hl, hr⟩
        · exact .inl (by simp [List.replicate_succ])
        · exact .inr ⟨by simp [List.replicate_succ], hl, hr⟩

theorem render_eq_next {body : List DsCall} {s s' : State} (h : render body s = .next s') :
    ∃ cs left, pageLoop body s.moreRest s.moreAnswers = some (cs, left) ∧
      s' = setMoreAnswers left (dsCalls ([.setFullWindow, .beginFrame] ++ cs ++ [.powerOff]) s) := by
  unfold render at h
  split at h
  · cases h
  · next cs left hp => cases h; exact ⟨cs, left, hp, rfl⟩

theorem render_eq_fault {body : List DsCall} {s : State} {r : Fault} (h : render body s = .fault r) :
    r = .renderHang ∧ ¬RenderEnds s := by
  unfold render at h
  split at h
  · next hp =>
    cases h
    refine ⟨rfl, fun he => ?_⟩
    have := (pageLoop_isSome_iff body s.moreRest s.moreAnswers).2 he
    simp [hp] at this
  · cases h

theorem render_ends {body : List DsCall} {s : State} (h : RenderEnds s) : ∃ s', render body s = .next s' := by
  obtain ⟨⟨cs, left⟩, hp⟩ := Option.isSome_iff_exists.1 ((pageLoop_isSome_iff body s.moreRest s.moreAnswers).2 h)
  exact ⟨_, by simp only [render, hp]; rfl⟩

theorem renderFrame_eq_next {s s' : State} (h : renderFrame s = .next s') :
    s.receivedCnt = s.expectedLen ∧ ∃ frame, Memory.readRange s.fb 0 s.expectedLen.toNat = some frame ∧
      render (frameBody frame) s = .next s' := by
  unfold renderFrame at h
  split at h
  · next hf =>
    split at h
    · cases h
    · next frame hr => exact ⟨by simpa [frameFull] using hf, frame, hr, h⟩
  · cases h

/-! ### The pulse cycle and the header -/

theorem pulseCycle_eq_next {s s' : State} (h : pulseCycle s = .next s') :
    ∃ cs left, pageLoop [.fill (pulseColorOf s)] s.moreRest s.moreAnswers = some (cs, left) ∧
      s' = setPulseToggle (!s.pulseToggle)
        (setMoreAnswers left (dsCalls ([.setFullWindow, .beginFrame] ++ cs ++ [.powerOff]) s)) := by
  obtain ⟨s1, h1, h2⟩ := andThen_eq_next h
  obtain ⟨cs, left, hp, rfl⟩ := render_eq_next h1
  cases h2
  exact ⟨cs, left, hp, rfl⟩

/-- A length is rejected exactly when it is not valid (R87, R112). -/
theorem lengthValid_iff (L : BitVec 32) :
    lengthValid L = true ↔ (L.toNat = 0 || decide (hw.capacity < L.toNat)) = false := by
  simp only [lengthValid, Bool.and_eq_true, decide_eq_true_eq, Bool.or_eq_false_iff, decide_eq_false_iff_not]
  omega

theorem interpretHeader_eq_next {L : BitVec 32} {s s' : State} (h : interpretHeader L s = .next s') :
    hw.hdrLen ≤ s.rxq.length ∧
      ((lengthValid L = true ∧ s' = headerAccept L s.now (setRxq (s.rxq.drop hw.hdrLen) s)) ∨
        (lengthValid L = false ∧ s' = headerReject (setRxq (s.rxq.drop hw.hdrLen) s))) := by
  obtain ⟨s1, h1, h2⟩ := andThen_eq_next h
  obtain ⟨hn, rfl⟩ := rxPopN_eq_next h1
  refine ⟨hn, ?_⟩
  split at h2
  · next hc =>
    cases h2
    refine .inr ⟨?_, rfl⟩
    cases hv : lengthValid L with
    | false => rfl
    | true => rw [lengthValid_iff, hc] at hv; cases hv
  · next hc =>
    cases h2
    exact .inl ⟨(lengthValid_iff L).2 (by simpa using hc), rfl⟩

end Sys2Proof.Machine
end

