-- ==== Sys2Proof/Laws/Exec.lean ====
section
/-! SUPPORT. What each instruction did, if it answered a next state: its condition held, and the state is this one. The provers'
frames and invariants start from here. -/

namespace Sys2Proof.Machine

variable {s s' : State}

theorem timedOut_eq_true : timedOut s = true ↔ hw.payloadTimeoutMs < (s.now - s.activityTs).toNat := by
  unfold timedOut
  rw [decide_eq_true_eq]
  rfl

theorem timedOut_eq_false : timedOut s = false ↔ (s.now - s.activityTs).toNat ≤ hw.payloadTimeoutMs := by
  rw [← Bool.not_eq_true, timedOut_eq_true, Nat.not_lt]

theorem frameOpen_eq_true : frameOpen s = true ↔ s.receivedCnt.toNat < s.expectedLen.toNat := by
  simp [frameOpen]

theorem frameFull_eq_true : frameFull s = true ↔ s.receivedCnt = s.expectedLen := by
  simp [frameFull]

theorem noToken_eq_true : noToken s = true ↔ cmdMatch s.rxq = false ∧ hdrReady s.rxq = false := by
  simp [noToken]

theorem execPulse_inv (h : exec .pulse s = .next s') :
    s.conn = .idle ∧ cmdMatch s.rxq = true ∧
      s' = setConn .pulsing (emitStatus .ok (setRxq (s.rxq.drop hw.cmdLen) s)) := by
  obtain ⟨hc, h⟩ := whenSelected_eq_next h
  obtain ⟨s1, h1, h2⟩ := andThen_eq_next h
  obtain ⟨-, rfl⟩ := rxPopN_eq_next h1
  cases h2
  simp only [Bool.and_eq_true, beq_iff_eq] at hc
  exact ⟨hc.1, hc.2, rfl⟩

theorem execPulseP_inv (h : exec .pulseP s = .next s') :
    s.conn = .pulsing ∧ cmdMatch s.rxq = true ∧ s' = emitStatus .ok (setRxq (s.rxq.drop hw.cmdLen) s) := by
  obtain ⟨hc, h⟩ := whenSelected_eq_next h
  obtain ⟨s1, h1, h2⟩ := andThen_eq_next h
  obtain ⟨-, rfl⟩ := rxPopN_eq_next h1
  cases h2
  simp only [Bool.and_eq_true, beq_iff_eq] at hc
  exact ⟨hc.1, hc.2, rfl⟩

theorem decodesTokens_iff : decodesTokens s = true ↔ s.conn ≠ .receivingFrame := by
  unfold decodesTokens
  cases s.conn <;> simp

theorem execFrame_inv {L : BitVec 32} (h : exec (.frame L) s = .next s') :
    s.conn ≠ .receivingFrame ∧ hdrReady s.rxq = true ∧ headerLength s.rxq = some L ∧ lengthValid L = true ∧
      s' = headerAccept L s.now (setRxq (s.rxq.drop hw.hdrLen) s) := by
  obtain ⟨hc, h⟩ := whenSelected_eq_next h
  simp only [Bool.and_eq_true, headerIs, beq_iff_eq] at hc
  obtain ⟨⟨hd, ⟨-, hh⟩, hl⟩, hv⟩ := hc
  rcases interpretHeader_eq_next h with ⟨-, ⟨-, rfl⟩ | ⟨hv', -⟩⟩
  · exact ⟨decodesTokens_iff.1 hd, hh, hl, hv, rfl⟩
  · rw [hv] at hv'; cases hv'

theorem execFrameZero_inv (h : exec .frameZero s = .next s') :
    s.conn ≠ .receivingFrame ∧ hdrReady s.rxq = true ∧ headerLength s.rxq = some 0 ∧
      s' = headerReject (setRxq (s.rxq.drop hw.hdrLen) s) := by
  obtain ⟨hc, h⟩ := whenSelected_eq_next h
  simp only [Bool.and_eq_true, headerIs, beq_iff_eq] at hc
  obtain ⟨hd, ⟨-, hh⟩, hl⟩ := hc
  rcases interpretHeader_eq_next h with ⟨-, ⟨hv, -⟩ | ⟨-, rfl⟩⟩
  · simp [lengthValid] at hv
  · exact ⟨decodesTokens_iff.1 hd, hh, hl, rfl⟩

theorem execFrameBig_inv {L : BitVec 32} (h : exec (.frameBig L) s = .next s') :
    s.conn ≠ .receivingFrame ∧ hdrReady s.rxq = true ∧ headerLength s.rxq = some L ∧ hw.capacity < L.toNat ∧
      s' = headerReject (setRxq (s.rxq.drop hw.hdrLen) s) := by
  obtain ⟨hc, h⟩ := whenSelected_eq_next h
  simp only [Bool.and_eq_true, headerIs, beq_iff_eq, decide_eq_true_eq] at hc
  obtain ⟨⟨hd, ⟨-, hh⟩, hl⟩, hb⟩ := hc
  rcases interpretHeader_eq_next h with ⟨-, ⟨hv, -⟩ | ⟨-, rfl⟩⟩
  · simp only [lengthValid, Bool.and_eq_true, decide_eq_true_eq] at hv
    omega
  · exact ⟨decodesTokens_iff.1 hd, hh, hl, hb, rfl⟩

theorem execData_inv {d : Byte} (h : exec (.data d) s = .next s') :
    s.conn = .receivingFrame ∧ s.receivedCnt.toNat < s.expectedLen.toNat ∧ s.receivedCnt.toNat < hw.capacity ∧
      (∃ rest, s.rxq = d :: rest) ∧
      s' = setActivityTs s.now (setReceivedCnt (s.receivedCnt + 1)
        (setFb (Memory.write s.fb s.receivedCnt.toNat d) (setRxq (s.rxq.drop 1) s))) := by
  obtain ⟨hc, h⟩ := whenSelected_eq_next h
  obtain ⟨s1, h1, h⟩ := andThen_eq_next h
  obtain ⟨-, rfl⟩ := rxPopN_eq_next h1
  obtain ⟨s2, h2, h⟩ := andThen_eq_next h
  obtain ⟨hi, rfl⟩ := memWrite_eq_next h2
  cases h
  simp only [Bool.and_eq_true, beq_iff_eq, frameOpen, decide_eq_true_eq] at hc
  obtain ⟨⟨hr, ho⟩, hd⟩ := hc
  refine ⟨hr, ho, hi, ?_, rfl⟩
  cases hq : s.rxq with
  | nil => simp [hq] at hd
  | cons x rest =>
    rw [hq] at hd
    simp only [List.head?_cons, Option.some.injEq] at hd
    exact ⟨rest, by rw [hd]⟩

theorem execStallP_inv {x : BitVec 32} (h : exec (.stallP x) s = .next s') :
    s.conn ≠ .receivingFrame ∧ stalled s.rxq = true ∧ stallTail s.rxq = some x ∧
      ((s.conn = .idle ∧ s' = s) ∨ (s.conn = .pulsing ∧ pulseCycle s = .next s')) := by
  obtain ⟨hc, h⟩ := whenSelected_eq_next h
  simp only [Bool.and_eq_true, stalledWith, beq_iff_eq] at hc
  obtain ⟨hd, ⟨-, hs⟩, hx⟩ := hc
  have hne := decodesTokens_iff.1 hd
  refine ⟨hne, hs, hx, ?_⟩
  cases hcn : s.conn with
  | idle => simp [hcn] at h; exact .inl ⟨rfl, h.symm⟩
  | pulsing => simp [hcn] at h; exact .inr ⟨rfl, h⟩
  | receivingFrame => exact absurd hcn hne

theorem execIdleWait_inv (h : exec .idleWait s = .next s') :
    s.conn = .idle ∧ noToken s = true ∧ s' = s := by
  obtain ⟨hc, h⟩ := whenSelected_eq_next h
  simp only [Bool.and_eq_true, beq_iff_eq] at hc
  cases h
  exact ⟨hc.1, hc.2, rfl⟩

theorem execPulseCycle_inv (h : exec .pulseCycle s = .next s') :
    s.conn = .pulsing ∧ noToken s = true ∧ pulseCycle s = .next s' := by
  obtain ⟨hc, h⟩ := whenSelected_eq_next h
  simp only [Bool.and_eq_true, beq_iff_eq] at hc
  exact ⟨hc.1, hc.2, h⟩

theorem execFrameComplete_inv (h : exec .frameComplete s = .next s') :
    s.conn = .receivingFrame ∧ s.receivedCnt = s.expectedLen ∧
      ∃ frame cs left, Memory.readRange s.fb 0 s.expectedLen.toNat = some frame ∧
        pageLoop (frameBody frame) s.moreRest s.moreAnswers = some (cs, left) ∧
        s' = setConn .idle (clearCounters (emitStatus .done
          (setMoreAnswers left (dsCalls ([.setFullWindow, .beginFrame] ++ cs ++ [.powerOff]) s)))) := by
  obtain ⟨hc, h⟩ := whenSelected_eq_next h
  obtain ⟨s1, h1, h⟩ := andThen_eq_next h
  cases h
  obtain ⟨hf, frame, hr, h1⟩ := renderFrame_eq_next h1
  obtain ⟨cs, left, hp, rfl⟩ := render_eq_next h1
  simp only [Bool.and_eq_true, beq_iff_eq] at hc
  exact ⟨hc.1, hf, frame, cs, left, hr, hp, rfl⟩

theorem execFrameTimeout_inv (h : exec .frameTimeout s = .next s') :
    s.conn = .receivingFrame ∧ s.receivedCnt.toNat < s.expectedLen.toNat ∧ timedOut s = true ∧
      s' = takeException .payloadTimeout s := by
  obtain ⟨hc, h⟩ := whenSelected_eq_next h
  simp only [Bool.and_eq_true, beq_iff_eq, frameOpen, decide_eq_true_eq] at hc
  cases h
  exact ⟨hc.1.1, hc.1.2, hc.2, rfl⟩

theorem execRecvWait_inv (h : exec .recvWait s = .next s') :
    s.conn = .receivingFrame ∧ s.receivedCnt.toNat < s.expectedLen.toNat ∧ timedOut s = false ∧ s' = s := by
  obtain ⟨hc, h⟩ := whenSelected_eq_next h
  simp only [Bool.and_eq_true, beq_iff_eq, frameOpen, decide_eq_true_eq, Bool.not_eq_true'] at hc
  cases h
  exact ⟨hc.1.1, hc.1.2, hc.2, rfl⟩

/-- The five status lines: each only writes its line. -/
theorem execStatus_eq (st : Status) (s : State) : exec (statusInstr st) s = .next (emitStatus st s) := by
  cases st <;> rfl

/-- Everything an instruction can do when it answers a next state, said once: the ten shapes of `exec`. -/
theorem exec_cases {i : Instr} (h : exec i s = .next s') :
    (i = .pulse ∧ s' = setConn .pulsing (emitStatus .ok (setRxq (s.rxq.drop hw.cmdLen) s))) ∨
    (i = .pulseP ∧ s' = emitStatus .ok (setRxq (s.rxq.drop hw.cmdLen) s)) ∨
    (∃ L, i = .frame L ∧ s' = headerAccept L s.now (setRxq (s.rxq.drop hw.hdrLen) s)) ∨
    ((i = .frameZero ∨ ∃ L, i = .frameBig L) ∧ s' = headerReject (setRxq (s.rxq.drop hw.hdrLen) s)) ∨
    (∃ d, i = .data d ∧ s' = setActivityTs s.now (setReceivedCnt (s.receivedCnt + 1)
        (setFb (Memory.write s.fb s.receivedCnt.toNat d) (setRxq (s.rxq.drop 1) s)))) ∨
    ((((∃ x, i = .stallP x) ∧ s.conn = .idle) ∨ i = .idleWait ∨ i = .recvWait) ∧ s' = s) ∨
    (((∃ x, i = .stallP x) ∨ i = .pulseCycle) ∧ s.conn = .pulsing ∧ ∃ cs left,
      pageLoop [.fill (pulseColorOf s)] s.moreRest s.moreAnswers = some (cs, left) ∧
      s' = setPulseToggle (!s.pulseToggle)
        (setMoreAnswers left (dsCalls ([.setFullWindow, .beginFrame] ++ cs ++ [.powerOff]) s))) ∨
    (i = .frameComplete ∧ s.receivedCnt = s.expectedLen ∧ ∃ frame cs left,
        Memory.readRange s.fb 0 s.expectedLen.toNat = some frame ∧
        pageLoop (frameBody frame) s.moreRest s.moreAnswers = some (cs, left) ∧
        s' = setConn .idle (clearCounters (emitStatus .done
          (setMoreAnswers left (dsCalls ([.setFullWindow, .beginFrame] ++ cs ++ [.powerOff]) s))))) ∨
    (i = .frameTimeout ∧ s' = takeException .payloadTimeout s) ∨
    (∃ st, i = statusInstr st ∧ s' = emitStatus st s) := by
  cases i with
  | pulse => exact .inl ⟨rfl, (execPulse_inv h).2.2⟩
  | pulseP => exact .inr (.inl ⟨rfl, (execPulseP_inv h).2.2⟩)
  | frame L => exact .inr (.inr (.inl ⟨L, rfl, (execFrame_inv h).2.2.2.2⟩))
  | frameZero => exact .inr (.inr (.inr (.inl ⟨.inl rfl, (execFrameZero_inv h).2.2.2⟩)))
  | frameBig L => exact .inr (.inr (.inr (.inl ⟨.inr ⟨L, rfl⟩, (execFrameBig_inv h).2.2.2.2⟩)))
  | data d => exact .inr (.inr (.inr (.inr (.inl ⟨d, rfl, (execData_inv h).2.2.2.2⟩))))
  | stallP x =>
    obtain ⟨-, -, -, ⟨hc, rfl⟩ | ⟨hc, hp⟩⟩ := execStallP_inv h
    · exact .inr (.inr (.inr (.inr (.inr (.inl ⟨.inl ⟨⟨x, rfl⟩, hc⟩, rfl⟩)))))
    · exact .inr (.inr (.inr (.inr (.inr (.inr (.inl ⟨.inl ⟨x, rfl⟩, hc, pulseCycle_eq_next hp⟩))))))
  | idleWait => exact .inr (.inr (.inr (.inr (.inr (.inl ⟨.inr (.inl rfl), (execIdleWait_inv h).2.2⟩)))))
  | pulseCycle =>
    obtain ⟨hc, -, hp⟩ := execPulseCycle_inv h
    exact .inr (.inr (.inr (.inr (.inr (.inr (.inl ⟨.inr rfl, hc, pulseCycle_eq_next hp⟩))))))
  | frameComplete => exact .inr (.inr (.inr (.inr (.inr (.inr (.inr (.inl ⟨rfl, (execFrameComplete_inv h).2⟩)))))))
  | frameTimeout => exact .inr (.inr (.inr (.inr (.inr (.inr (.inr (.inr (.inl ⟨rfl, (execFrameTimeout_inv h).2.2.2⟩))))))))
  | recvWait => exact .inr (.inr (.inr (.inr (.inr (.inl ⟨.inr (.inr rfl), (execRecvWait_inv h).2.2.2⟩)))))
  | ok => exact .inr (.inr (.inr (.inr (.inr (.inr (.inr (.inr (.inr ⟨.ok, rfl, by cases h; rfl⟩))))))))
  | ready => exact .inr (.inr (.inr (.inr (.inr (.inr (.inr (.inr (.inr ⟨.ready, rfl, by cases h; rfl⟩))))))))
  | errLen => exact .inr (.inr (.inr (.inr (.inr (.inr (.inr (.inr (.inr ⟨.errLen, rfl, by cases h; rfl⟩))))))))
  | errTimeout => exact .inr (.inr (.inr (.inr (.inr (.inr (.inr (.inr (.inr ⟨.errTimeout, rfl, by cases h; rfl⟩))))))))
  | done => exact .inr (.inr (.inr (.inr (.inr (.inr (.inr (.inr (.inr ⟨.done, rfl, by cases h; rfl⟩))))))))

end Sys2Proof.Machine
end

