-- ==== Sys2Proof/Laws/PerInstr.lean ====
section
/-! SUPPORT. Statements for all instructions, one lemma per constructor: the length of an encoding is the opcode table's width. -/

namespace Sys2Proof.Laws.EncodeLength

/-- The opcode table's "width_bits". -/
def widthBits : Instr → Nat
  | .pulse | .pulseP | .stallP _ | .done => 40
  | .frame _ | .frameZero | .frameBig _ => 32
  | .data _ => 8
  | .idleWait | .pulseCycle | .frameComplete | .frameTimeout | .recvWait => 0
  | .ok => 24
  | .ready => 48
  | .errLen => 64
  | .errTimeout => 96

/-- The encoding has as many bits as the table gives the row. -/
def Statement (i : Instr) : Prop := 8 * (encode i).length = widthBits i

theorem pulse : Statement .pulse := rfl
theorem pulseP : Statement .pulseP := rfl
theorem frame (L : BitVec 32) : Statement (.frame L) := rfl
theorem frameZero : Statement .frameZero := rfl
theorem frameBig (L : BitVec 32) : Statement (.frameBig L) := rfl
theorem data (d : Byte) : Statement (.data d) := rfl
theorem stallP (x : BitVec 32) : Statement (.stallP x) := rfl
theorem idleWait : Statement .idleWait := rfl
theorem pulseCycle : Statement .pulseCycle := rfl
theorem frameComplete : Statement .frameComplete := rfl
theorem frameTimeout : Statement .frameTimeout := rfl
theorem recvWait : Statement .recvWait := rfl
theorem ok : Statement .ok := rfl
theorem ready : Statement .ready := rfl
theorem errLen : Statement .errLen := rfl
theorem errTimeout : Statement .errTimeout := rfl
theorem done : Statement .done := rfl

end Sys2Proof.Laws.EncodeLength
end

