-- ==== Sys2Proof/Laws/Step.lean ====
section
/-! SUPPORT. What a step can do, said once, and the two inductions over it: over the bytes of a drain and over the steps of a
run. -/

namespace Sys2Proof.Machine

theorem setPending_nil {s : State} (h : s.pending = []) : setPending [] s = s := by
  cases s
  cases h
  rfl

/-- With no move of the environment to come, a step is the block's own. -/
theorem step_of_no_pending {s : State} (h : s.pending = []) : step s = blockStep s := by
  unfold step envStep
  rw [h, deliver, setPending_nil h]

theorem blockStep_tokens {s : State} (h : s.conn ≠ .receivingFrame) :
    blockStep s = exec (select s.conn s.rxq) s := by
  unfold blockStep
  cases hc : s.conn with
  | idle => simp only [stepTokens, hc]
  | pulsing => simp only [stepTokens, hc]
  | receivingFrame => exact absurd hc h

theorem blockStep_receiving {s : State} (h : s.conn = .receivingFrame) :
    blockStep s = andThen (drain s.rxq s) fun t => exec (closing t) t := by
  unfold blockStep
  rw [h]
  rfl

/-- A step that answers a next state ran one operation outside ReceivingFrame, and a drain and one closing operation inside. -/
theorem step_cases {s s' : State} (h : step s = .next s') :
    ((deliver s.pending s).conn ≠ .receivingFrame ∧
      exec (select (deliver s.pending s).conn (deliver s.pending s).rxq) (deliver s.pending s) = .next s') ∨
    ((deliver s.pending s).conn = .receivingFrame ∧
      ∃ t, drain (deliver s.pending s).rxq (deliver s.pending s) = .next t ∧ exec (closing t) t = .next s') := by
  unfold step envStep at h
  by_cases hc : (deliver s.pending s).conn = .receivingFrame
  · rw [blockStep_receiving hc] at h
    obtain ⟨t, h1, h2⟩ := andThen_eq_next h
    exact .inr ⟨hc, t, h1, h2⟩
  · rw [blockStep_tokens hc] at h
    exact .inl ⟨hc, h⟩

/-- What every `DATA` keeps, a drain keeps. -/
theorem drain_keeps {P : State → Prop} (hP : ∀ d s s', P s → exec (.data d) s = .next s' → P s')
    {q : List Byte} {s s' : State} (h0 : P s) (h : drain q s = .next s') : P s' := by
  induction q generalizing s with
  | nil => cases h; exact h0
  | cons d rest ih =>
    unfold drain at h
    split at h
    · obtain ⟨s1, h1, h2⟩ := andThen_eq_next h
      exact ih (hP d s s1 h0 h1) h2
    · cases h; exact h0

/-- What every move keeps, and what does not speak of the list of moves, a delivery keeps. -/
theorem deliver_keeps {P : State → Prop} (hp : ∀ ms s, P s → P (setPending ms s))
    {moves : List Move} (hm : ∀ m ∈ moves, ∀ s, P s → P (applyMove m s)) {s : State} (h0 : P s) :
    P (deliver moves s) := by
  induction moves generalizing s with
  | nil => exact hp [] s h0
  | cons m ms ih =>
    have hrest := fun s h => ih (fun m hm' => hm m (List.mem_cons_of_mem _ hm')) (s := s) h
    have hhead := hm m (List.mem_cons_self ..) s h0
    cases m with
    | step => exact hp ms s h0
    | send bytes => exact hrest _ hhead
    | pulse => exact hrest _ hhead
    | hdr n => exact hrest _ hhead
    | adv ms' => exact hrest _ hhead
    | powerOn => exact hrest _ hhead

theorem run_zero (s : State) : Host.Core.run Sys2Proof.core 0 s = .next s := rfl

/-- One more step of any machine, then the rest of its run. -/
theorem core_run_succ (M : Host.Core) (k : Nat) (s : M.State) :
    M.run (k + 1) s = match M.step s with
      | .next s' => M.run k s'
      | .fault r => .fault r
      | .refused r => .refused r := rfl

theorem run_succ (k : Nat) (s : State) :
    Host.Core.run Sys2Proof.core (k + 1) s = andThen (step s) (Host.Core.run Sys2Proof.core k) := by
  refine (core_run_succ Sys2Proof.core k s).trans ?_
  show _ = andThen (Sys2Proof.core.step s) (Host.Core.run Sys2Proof.core k)
  cases Sys2Proof.core.step s <;> rfl

/-- A run whose first step answers a next state goes on from there. -/
theorem run_succ_next {k : Nat} {s t : State} (h : step s = .next t) :
    Host.Core.run Sys2Proof.core (k + 1) s = Host.Core.run Sys2Proof.core k t := by
  rw [run_succ, h]
  rfl

/-- What holds at a state and what every step keeps holds after any number of steps. -/
theorem run_keeps {P : State → Prop} (hP : ∀ s s', P s → step s = .next s' → P s') {k : Nat} {s s' : State}
    (h0 : P s) (h : Host.Core.run Sys2Proof.core k s = .next s') : P s' := by
  induction k generalizing s with
  | zero => cases h; exact h0
  | succ k ih =>
    rw [run_succ] at h
    obtain ⟨s1, h1, h2⟩ := andThen_eq_next h
    exact ih (hP s s1 h0 h1) h2

end Sys2Proof.Machine
end

