-- ==== Sys2Proof/Tests/Slice0.lean ====
section
/-! SUPPORT. The model's own tests: ill-formed terms refused, the spec's encodings decoded, one-step vectors of
95_test_vectors.md, and a witness for the hypotheses of each obligation. -/

namespace Sys2Proof.Tests

open Sys2Proof Sys2Proof.Machine

/-- A small state: the given registers, queue and clock, the toggle false, everything else as after reset. -/
def small (c : Conn) (exp rcv : Len) (ts : Time) (q : List Byte) (t : Time) : State :=
  { State.reset with
    conn := c, expectedLen := exp, receivedCnt := rcv, activityTs := ts, rxq := q, now := t, pulseToggle := false }

/-- Idle or Pulsing with a queue, at time 42. -/
def idleWith (q : List Byte) : State := small .idle 0 0 0 q 42
def pulsingWith (q : List Byte) : State := small .pulsing 0 0 0 q 42

/-! ### Ill-formed terms are refused -/

theorem test_illformed_frame_zero : WellFormed (.frame 0) = false := by decide
theorem test_illformed_frame_big : WellFormed (.frame 12481) = false := by decide
theorem test_illformed_frameBig_small : WellFormed (.frameBig 12480) = false := by decide
theorem test_illformed_frameBig_P : WellFormed (.frameBig 0x50000000) = false := by decide
theorem test_illformed_stallP_ulse : WellFormed (.stallP 0x554C5345) = false := by decide
theorem test_wellformed_bounds :
    WellFormed (.frame 1) = true ∧ WellFormed (.frame 12480) = true ∧ WellFormed (.frameBig 12481) = true ∧
      WellFormed (.frameBig 0xFFFFFFFF) = true ∧ WellFormed (.frameBig 0x51000000) = true ∧
      WellFormed (.stallP 0) = true := by decide

/-! ### Decoding, from words written out of 30_encoding.md and the opcode table -/

theorem test_decode_pulse : decode .idle [0x50, 0x55, 0x4C, 0x53, 0x45] = .ok .pulse := by decide
theorem test_decode_pulseP : decode .pulsing [0x50, 0x55, 0x4C, 0x53, 0x45] = .ok .pulseP := by decide
theorem test_decode_frame_10080 : decode .idle [0x00, 0x00, 0x27, 0x60] = .ok (.frame 10080) := by decide
theorem test_decode_frame_max : decode .pulsing [0x00, 0x00, 0x30, 0xC0] = .ok (.frame 12480) := by decide
theorem test_decode_frameZero : decode .idle [0x00, 0x00, 0x00, 0x00] = .ok .frameZero := by decide
theorem test_decode_frameBig : decode .idle [0x00, 0x00, 0x30, 0xC1] = .ok (.frameBig 12481) := by decide
theorem test_decode_lowercase : decode .idle [0x70, 0x75, 0x6C, 0x73, 0x65] = .ok (.frameBig 0x70756C73) := by decide
theorem test_decode_data : decode .receivingFrame [0x50, 0x55] = .ok (.data 0x50) := by decide
theorem test_decode_stallP : decode .idle [0x50, 0x55, 0x4C, 0x53, 0x58] = .ok (.stallP 0x554C5358) := by decide
theorem test_decode_stallP_pulsing : decode .pulsing [0x50, 0x00, 0x00, 0x00, 0x01] = .ok (.stallP 1) := by decide
theorem test_decode_pending_empty : decode .idle [] = .error .empty := by decide
theorem test_decode_pending_header : decode .pulsing [0x00, 0x00, 0x27] = .error .headerFragment := by decide
theorem test_decode_pending_command : decode .idle [0x50, 0x55, 0x4C, 0x53] = .error .commandFragment := by decide
theorem test_select_waits :
    select .idle [] = .idleWait ∧ select .pulsing [] = .pulseCycle ∧ select .receivingFrame [] = .recvWait := by decide

theorem test_status_ok : encode .ok = [0x4F, 0x4B, 0x0A] ∧ decodeStatus [0x4F, 0x4B, 0x0A] = some .ok := by decide
theorem test_status_ready :
    encode .ready = [0x52, 0x45, 0x41, 0x44, 0x59, 0x0A] ∧
      decodeStatus [0x52, 0x45, 0x41, 0x44, 0x59, 0x0A] = some .ready := by decide
theorem test_status_errLen :
    encode .errLen = [0x45, 0x52, 0x52, 0x5F, 0x4C, 0x45, 0x4E, 0x0A] ∧
      decodeStatus [0x45, 0x52, 0x52, 0x5F, 0x4C, 0x45, 0x4E, 0x0A] = some .errLen := by decide
theorem test_status_errTimeout :
    encode .errTimeout = [0x45, 0x52, 0x52, 0x5F, 0x54, 0x49, 0x4D, 0x45, 0x4F, 0x55, 0x54, 0x0A] ∧
      decodeStatus [0x45, 0x52, 0x52, 0x5F, 0x54, 0x49, 0x4D, 0x45, 0x4F, 0x55, 0x54, 0x0A] = some .errTimeout := by
  decide
theorem test_status_done :
    encode .done = [0x44, 0x4F, 0x4E, 0x45, 0x0A] ∧ decodeStatus [0x44, 0x4F, 0x4E, 0x45, 0x0A] = some .done := by decide
theorem test_status_without_newline : decodeStatus [0x4F, 0x4B] = none := by decide

theorem test_tableWord_tokens :
    decodeTableWord 40 0x50554C5345 = some .pulse ∧ decodeTableWord 32 0x00002760 = some (.frame 10080) ∧
      decodeTableWord 32 0 = some .frameZero ∧ decodeTableWord 32 0x000030C1 = some (.frameBig 12481) ∧
      decodeTableWord 8 0xA5 = some (.data 0xA5) ∧ decodeTableWord 40 0x5000000000 = some (.stallP 0) ∧
      decodeTableWord 0 0 = some .idleWait := by decide
theorem test_tableWord_status :
    decodeTableWord 24 0x4F4B0A = some .ok ∧ decodeTableWord 48 0x52454144590A = some .ready ∧
      decodeTableWord 64 0x4552525F4C454E0A = some .errLen ∧
      decodeTableWord 96 0x4552525F54494D454F55540A = some .errTimeout ∧
      decodeTableWord 40 0x444F4E450A = some .done := by decide

/-! ### One step on a placed word, right after reset -/

theorem test_placed_pulse :
    step (State.reset.withFetchWord 40 0x50554C5345) = exec .pulse { State.reset with rxq := hw.cmdToken } := rfl
theorem test_placed_frame :
    step (State.reset.withFetchWord 32 0x00002760) =
      exec (.frame 10080) { State.reset with rxq := [0x00, 0x00, 0x27, 0x60] } := rfl
theorem test_placed_data :
    step (State.reset.withFetchWord 8 0xA5) =
      .next { State.reset with
        conn := .receivingFrame, expectedLen := 2, receivedCnt := 1, activityTs := 0, fb := [(0, 0xA5)] } := rfl

/-! ### The parameters agree among themselves (00_scope.md R7, R8) -/

theorem test_params :
    hw.cmdToken.length = hw.cmdLen ∧ hw.cmdToken.head? = some hw.cmdFirst ∧ hw.capacity = 0x30C0 ∧
      hw.capacity < 2 ^ hw.lenW ∧ hw.cmdLen ≤ hw.lookahead := by decide
theorem test_panel_fits : rowStride panelW * panelH ≤ hw.capacity := panel_fits
theorem test_connCode : connCode .idle = 0 ∧ connCode .pulsing = 1 ∧ connCode .receivingFrame = 2 := by decide

/-! ### One-step vectors of 95_test_vectors.md -/

/-- V8: the payload is not touched in the step that accepts the header. -/
theorem test_v8 :
    step (small .idle 0 0 0 [0x00, 0x00, 0x27, 0x60, 0x01, 0x02] 7) =
      .next { small .receivingFrame 10080 0 7 [0x01, 0x02] 7 with txlog := [0x52, 0x45, 0x41, 0x44, 0x59, 0x0A] } := rfl

/-- V3. -/
theorem test_v3 :
    step (idleWith [0x00, 0x00, 0x30, 0xC1]) =
      .next { idleWith [] with txlog := [0x45, 0x52, 0x52, 0x5F, 0x4C, 0x45, 0x4E, 0x0A] } := rfl

/-- V4: not reduced to 0 modulo 2^16. -/
theorem test_v4 :
    step (idleWith [0x00, 0x01, 0x00, 0x00]) =
      .next { idleWith [] with txlog := [0x45, 0x52, 0x52, 0x5F, 0x4C, 0x45, 0x4E, 0x0A] } := rfl

/-- V6: what follows the bad header is flushed. -/
theorem test_v6 :
    step (idleWith [0x00, 0x00, 0x00, 0x00, 0x11, 0x22]) =
      .next { idleWith [] with txlog := [0x45, 0x52, 0x52, 0x5F, 0x4C, 0x45, 0x4E, 0x0A] } := rfl

/-- V11: four bytes whose first is 0x50 are no header. -/
theorem test_v11 : step (idleWith [0x50, 0x55, 0x4C, 0x53]) = .next (idleWith [0x50, 0x55, 0x4C, 0x53]) := rfl

/-- V13: one token per step. -/
theorem test_v13 :
    step (idleWith [0x50, 0x55, 0x4C, 0x53, 0x45, 0x00, 0x00, 0x00, 0x01]) =
      .next { pulsingWith [0x00, 0x00, 0x00, 0x01] with txlog := [0x4F, 0x4B, 0x0A] } := rfl

/-- V14. -/
theorem test_v14 :
    step (idleWith [0x50, 0x55, 0x4C, 0x53, 0x58]) = .next (idleWith [0x50, 0x55, 0x4C, 0x53, 0x58]) := rfl

/-- V16. -/
theorem test_v16 :
    step { small .receivingFrame 4 1 100 [0x22, 0x33] 500 with fb := [(0, 0x11)] } =
      .next { small .receivingFrame 4 3 500 [] 500 with fb := [(0, 0x11), (1, 0x22), (2, 0x33)] } := rfl

/-- V17: the drain stops at `expected_len`. -/
theorem test_v17 :
    step { small .receivingFrame 2 1 100 [0xBB, 0x50] 500 with fb := [(0, 0xAA)] } =
      .next { small .idle 0 0 500 [0x50] 500 with
        fb := [(0, 0xAA), (1, 0xBB)]
        txlog := [0x44, 0x4F, 0x4E, 0x45, 0x0A]
        dslog := [.setFullWindow, .beginFrame, .fill .white,
          .drawInvertedBitmap 0 0 [0xAA, 0xBB] panelW panelH .black, .isMoreToRender false, .powerOff] } := rfl

/-- V18: 2000 is not more than 2000. -/
theorem test_v18 :
    step (small .receivingFrame 4 3 500 [] 2500) = .next (small .receivingFrame 4 3 500 [] 2500) := rfl

/-- V20. -/
theorem test_v20 :
    step (small .receivingFrame 4 3 500 [] 2501) =
      .next { small .idle 0 0 500 [] 2501 with
        txlog := [0x45, 0x52, 0x52, 0x5F, 0x54, 0x49, 0x4D, 0x45, 0x4F, 0x55, 0x54, 0x0A] } := rfl

/-- V23: 2000 ms across the wrap of the clock. -/
theorem test_v23 :
    step (small .receivingFrame 4 1 4294966296 [] 1000) = .next (small .receivingFrame 4 1 4294966296 [] 1000) := rfl

/-- V24: 2001 ms across the wrap. -/
theorem test_v24 :
    step (small .receivingFrame 4 1 4294966296 [] 1001) =
      .next { small .idle 0 0 4294966296 [] 1001 with
        txlog := [0x45, 0x52, 0x52, 0x5F, 0x54, 0x49, 0x4D, 0x45, 0x4F, 0x55, 0x54, 0x0A] } := rfl

/-- V25: a command token inside a payload is payload. -/
theorem test_v25 :
    step (small .receivingFrame 8 0 0 [0x50, 0x55, 0x4C, 0x53, 0x45] 5) =
      .next { small .receivingFrame 8 5 5 [] 5 with
        fb := [(0, 0x50), (1, 0x55), (2, 0x4C), (3, 0x53), (4, 0x45)] } := rfl

/-- V28: a header in Pulsing draws nothing. -/
theorem test_v28 :
    step (small .pulsing 0 0 0 [0x00, 0x00, 0x00, 0x01] 700) =
      .next { small .receivingFrame 1 0 700 [] 700 with txlog := [0x52, 0x45, 0x41, 0x44, 0x59, 0x0A] } := rfl

/-- V29: a bad header in Pulsing ends it. -/
theorem test_v29 :
    step (pulsingWith [0x00, 0x00, 0x00, 0x00, 0x09, 0x09]) =
      .next { idleWith [] with txlog := [0x45, 0x52, 0x52, 0x5F, 0x4C, 0x45, 0x4E, 0x0A] } := rfl

/-- V30: three pages. -/
theorem test_v30 :
    step { small .receivingFrame 1 0 0 [0xFF] 5 with moreAnswers := [true, true, false] } =
      .next { small .idle 0 0 5 [] 5 with
        fb := [(0, 0xFF)]
        txlog := [0x44, 0x4F, 0x4E, 0x45, 0x0A]
        dslog := [.setFullWindow, .beginFrame,
          .fill .white, .drawInvertedBitmap 0 0 [0xFF] panelW panelH .black, .isMoreToRender true,
          .fill .white, .drawInvertedBitmap 0 0 [0xFF] panelW panelH .black, .isMoreToRender true,
          .fill .white, .drawInvertedBitmap 0 0 [0xFF] panelW panelH .black, .isMoreToRender false,
          .powerOff] } := rfl

/-- V31. -/
theorem test_v31 :
    step (pulsingWith []) =
      .next { pulsingWith [] with
        pulseToggle := true
        dslog := [.setFullWindow, .beginFrame, .fill (Config.pulseColor false), .isMoreToRender false, .powerOff] } := rfl

/-- V33: a fragment does not stop the pulse. -/
theorem test_v33 :
    step { pulsingWith [0x00, 0x00, 0x00] with pulseToggle := true } =
      .next { pulsingWith [0x00, 0x00, 0x00] with
        pulseToggle := false
        dslog := [.setFullWindow, .beginFrame, .fill (Config.pulseColor true), .isMoreToRender false, .powerOff] } := rfl

/-- V34: no fill in the step of a repeated command. -/
theorem test_v34 :
    step (pulsingWith [0x50, 0x55, 0x4C, 0x53, 0x45]) = .next { pulsingWith [] with txlog := [0x4F, 0x4B, 0x0A] } := rfl

/-- V36: stalled input pulses on, and the queue stays. -/
theorem test_v36 :
    step (pulsingWith [0x50, 0x58, 0x58, 0x58, 0x58]) =
      .next { pulsingWith [0x50, 0x58, 0x58, 0x58, 0x58] with
        pulseToggle := true
        dslog := [.setFullWindow, .beginFrame, .fill (Config.pulseColor false), .isMoreToRender false, .powerOff] } := rfl

/-- An operation in a state that does not select it stops by name (log entry 9). -/
theorem test_not_selected : exec .pulse (pulsingWith hw.cmdToken) = .fault .notSelected := rfl

/-- The host script of R93: a frame of two bytes as moves, and a fill. -/
theorem test_script :
    deliver (frameMoves [0xAA, 0xBB] ++ [fillMove 2 0x11, .pulse, .adv 5] ++ stepMoves 2) (idleWith []) =
      { small .idle 0 0 0
          [0x00, 0x00, 0x00, 0x02, 0xAA, 0xBB, 0x11, 0x11, 0x50, 0x55, 0x4C, 0x53, 0x45] 47 with
        pending := [.step] } := rfl

/-- A later start-up keeps the queue and the logs and makes the registers' values afresh (R38). -/
theorem test_power_on :
    deliver [.powerOn, .step] (small .receivingFrame 4 3 500 [0x77] 2501) =
      { small .idle 0 0 500 [0x77] 2501 with
        pulseToggle := Config.bootToggle 1, activityTs := Config.bootActivityTs hw.timeW 1, boots := 2 } := rfl

/-- The leftmost pixel of a byte is its bit 7 (20_memory.md R54). -/
theorem test_pixel :
    let s := { idleWith [] with dslog := [.drawInvertedBitmap 0 0 [0x80, 0x01] 8 2 .black] }
    surfacePixel s 0 0 0 = some true ∧ surfacePixel s 0 7 0 = some false ∧ surfacePixel s 0 7 1 = some true := by decide

/-! ### Witnesses: hypotheses that a state meets -/

theorem test_witness_DecodeOfEncode :
    [(Instr.pulse, Conn.idle), (.pulseP, .pulsing), (.frame 1, .idle), (.frame 12480, .pulsing), (.frameZero, .idle),
      (.frameBig 12481, .idle), (.frameBig 0xFFFFFFFF, .pulsing), (.data 0xFF, .receivingFrame), (.stallP 0, .pulsing)].all
      (fun p => WellFormed p.1 && decodedIn p.1 p.2) = true := by decide

theorem test_witness_EncodeOfDecode : decode .pulsing [0x00, 0x00, 0x00, 0x01, 0xFF] = .ok (.frame 1) := by decide

/-- One queue for each of the six rows, at the ends of its range of lengths. -/
theorem test_witness_DecoderVerdicts :
    decode .idle [0x50, 0x55, 0x4C, 0x53, 0x45] = .ok .pulse ∧
    decode .idle [0x51, 0x00, 0x00, 0x00] = .ok (headerInstr 0x51000000) ∧
    decode .idle [] = .error .empty ∧
    decode .idle [0x4F] = .error .headerFragment ∧ decode .idle [0x51, 0x50, 0x50] = .error .headerFragment ∧
    decode .idle [0x50] = .error .commandFragment ∧ decode .idle [0x50, 0x50, 0x50, 0x50] = .error .commandFragment ∧
    decode .idle [0x50, 0x50, 0x50, 0x50, 0x50] = .ok (.stallP 0x50505050) := by decide

theorem test_witness_LookaheadSuffices :
    ([1, 2, 3, 4, 5, 6] : List Byte).take hw.lookahead = ([1, 2, 3, 4, 5] : List Byte).take hw.lookahead := by decide

/-- The first and the last length of each class. -/
theorem test_witness_LengthClasses :
    decode .idle [0x00, 0x00, 0x00, 0x00] = .ok .frameZero ∧
    decode .idle [0x00, 0x00, 0x00, 0x01] = .ok (.frame 1) ∧ decode .idle [0x00, 0x00, 0x30, 0xC0] = .ok (.frame 12480) ∧
    decode .idle [0x00, 0x00, 0x30, 0xC1] = .ok (.frameBig 12481) ∧
    decode .idle [0xFF, 0xFF, 0xFF, 0xFF] = .ok (.frameBig 0xFFFFFFFF) := by decide

theorem test_witness_PulseAcceptedInIdle :
    (idleWith (hw.cmdToken ++ [0x50])).conn = .idle ∧ (idleWith (hw.cmdToken ++ [0x50])).rxq = hw.cmdToken ++ [0x50] := by
  decide

theorem test_witness_PulseRepeatedInPulsing :
    (pulsingWith hw.cmdToken).conn = .pulsing ∧ (pulsingWith hw.cmdToken).rxq = hw.cmdToken ++ [] := by decide

/-- The smallest and the largest valid length, in each of the two states. -/
theorem test_witness_ValidHeaderAccepted :
    ((idleWith [0, 0, 0, 1]).conn ≠ .receivingFrame ∧ (idleWith [0, 0, 0, 1]).rxq = beBytes 1 ++ [] ∧
      1 ≤ (1 : BitVec 32).toNat ∧ (1 : BitVec 32).toNat ≤ hw.capacity) ∧
    ((pulsingWith [0, 0, 0x30, 0xC0, 7]).conn ≠ .receivingFrame ∧
      (pulsingWith [0, 0, 0x30, 0xC0, 7]).rxq = beBytes 12480 ++ [7] ∧
      1 ≤ (12480 : BitVec 32).toNat ∧ (12480 : BitVec 32).toNat ≤ hw.capacity) := by decide

/-- Length 0, the smallest too large length and the largest. -/
theorem test_witness_InvalidHeaderRejected :
    ((idleWith [0, 0, 0, 0]).conn ≠ .receivingFrame ∧ (idleWith [0, 0, 0, 0]).rxq = beBytes 0 ++ [] ∧
      topByte 0 ≠ hw.cmdFirst) ∧
    ((pulsingWith [0, 0, 0x30, 0xC1]).conn ≠ .receivingFrame ∧
      (pulsingWith [0, 0, 0x30, 0xC1]).rxq = beBytes 12481 ++ [] ∧ topByte 12481 ≠ hw.cmdFirst ∧
      hw.capacity < (12481 : BitVec 32).toNat) ∧
    ((idleWith [0xFF, 0xFF, 0xFF, 0xFF]).rxq = beBytes 0xFFFFFFFF ++ [] ∧ topByte 0xFFFFFFFF ≠ hw.cmdFirst ∧
      hw.capacity < (0xFFFFFFFF : BitVec 32).toNat) := by decide

/-- The first byte of the smallest frame and the last byte of the largest. -/
theorem test_witness_PayloadByteStored :
    (let s := small .receivingFrame 1 0 0 [0xFF] 5;
      s.conn = .receivingFrame ∧ s.receivedCnt.toNat < s.expectedLen.toNat ∧ s.expectedLen.toNat ≤ hw.capacity ∧
        s.rxq = 0xFF :: []) ∧
    (let s := small .receivingFrame 12480 12479 0 [0x50, 0x01] 5;
      s.conn = .receivingFrame ∧ s.receivedCnt.toNat < s.expectedLen.toNat ∧ s.expectedLen.toNat ≤ hw.capacity ∧
        s.rxq = 0x50 :: [0x01]) := by decide

/-- A queue for each of the four forms. -/
theorem test_witness_IdleWaitsUnchanged :
    (idleWith []).conn = .idle ∧ (idleWith []).rxq = [] ∧ (idleWith []).pending = [] ∧
    ((idleWith [0, 0, 0x27]).rxq.length < hw.hdrLen ∧ (idleWith [0, 0, 0x27]).rxq.head? ≠ some hw.cmdFirst) ∧
    ((idleWith [0x50, 0x55, 0x4C, 0x53]).rxq.length < hw.cmdLen ∧
      (idleWith [0x50, 0x55, 0x4C, 0x53]).rxq.head? = some hw.cmdFirst) ∧
    (hw.cmdLen ≤ (idleWith [0x50, 0, 0, 0, 1]).rxq.length ∧ (idleWith [0x50, 0, 0, 0, 1]).rxq.head? = some hw.cmdFirst ∧
      (idleWith [0x50, 0, 0, 0, 1]).rxq.take hw.cmdLen ≠ hw.cmdToken) := by decide

theorem test_witness_StalledHeadKept :
    (idleWith [0x50, 0, 0, 0, 1]).rxq = hw.cmdFirst :: beBytes 1 ++ [] ∧ hw.cmdFirst :: beBytes 1 ≠ hw.cmdToken ∧
      (idleWith [0x50, 0, 0, 0, 1]).conn = .idle ∧
      (pulsingWith [0x50, 0, 0, 0, 1]).conn = .pulsing ∧ Pages 0 [] (pulsingWith [0x50, 0, 0, 0, 1]) :=
  ⟨rfl, by decide, rfl, rfl, .inr ⟨rfl, rfl, rfl⟩⟩

/-- One page by the standing answer, and three by listed ones. -/
theorem test_witness_PulseCycleDraws :
    ((pulsingWith [0, 0, 0]).conn = .pulsing ∧ noToken (pulsingWith [0, 0, 0]) = true ∧ Pages 0 [] (pulsingWith [0, 0, 0])) ∧
    (noToken { pulsingWith [] with moreAnswers := [true, true, false, true] } = true ∧
      Pages 2 [true] { pulsingWith [] with moreAnswers := [true, true, false, true] }) :=
  ⟨⟨rfl, by decide, .inr ⟨rfl, rfl, rfl⟩⟩, by decide, .inl rfl⟩

theorem test_witness_CompleteFrameRendered :
    let s := { small .receivingFrame 2 2 0 [] 0 with fb := [(0, 0xAA), (1, 0xBB)] }
    s.conn = .receivingFrame ∧ s.receivedCnt = s.expectedLen ∧ [(0xAA : Byte), 0xBB].length = s.expectedLen.toNat ∧
      (∀ i (h : i < [(0xAA : Byte), 0xBB].length), Memory.read s.fb i = some [(0xAA : Byte), 0xBB][i]) ∧ Pages 0 [] s :=
  ⟨rfl, rfl, rfl, by decide, .inr ⟨rfl, rfl, rfl⟩⟩

theorem test_witness_EndlessRenderHangs :
    (let s := { pulsingWith [] with moreRest := true, moreAnswers := [true] };
      s.moreRest = true ∧ (∀ a ∈ s.moreAnswers, a = true) ∧ s.conn = .pulsing ∧ noToken s = true) ∧
    (let s := { pulsingWith [0x50, 0, 0, 0, 1] with moreRest := true };
      s.moreRest = true ∧ (∀ a ∈ s.moreAnswers, a = true) ∧ s.conn = .pulsing ∧
        s.rxq = hw.cmdFirst :: beBytes 1 ++ [] ∧ hw.cmdFirst :: beBytes 1 ≠ hw.cmdToken) ∧
    (let s := { small .receivingFrame 1 1 0 [] 0 with moreRest := true, fb := [(0, 0xFF)] };
      s.moreRest = true ∧ (∀ a ∈ s.moreAnswers, a = true) ∧ s.conn = .receivingFrame ∧ s.receivedCnt = s.expectedLen ∧
        ∀ i < s.expectedLen.toNat, (Memory.read s.fb i).isSome = true) := by decide

/-- 2001 ms. -/
theorem test_witness_PayloadTimesOut :
    let s := small .receivingFrame 4 3 500 [] 2501
    s.conn = .receivingFrame ∧ s.receivedCnt.toNat < s.expectedLen.toNat ∧ hw.payloadTimeoutMs < (s.now - s.activityTs).toNat := by decide

/-- 2000 ms. -/
theorem test_witness_ReceiveWaitsUnchanged :
    let s := small .receivingFrame 4 3 500 [] 2500
    s.conn = .receivingFrame ∧ s.receivedCnt.toNat < s.expectedLen.toNat ∧ (s.now - s.activityTs).toNat ≤ hw.payloadTimeoutMs ∧
      s.pending = [] ∧ s.rxq = [] := by decide

theorem test_witness_StopsOutsideItsState :
    (small .receivingFrame 4 3 500 [] 0).conn = .receivingFrame ∧ (idleWith []).conn ≠ .receivingFrame ∧
      (idleWith []).conn = .idle ∧ (pulsingWith []).conn = .pulsing := by decide

/-- An instruction of each shape answers a next state: the premise of the frames. -/
theorem test_witness_frames :
    exec .idleWait (idleWith []) = .next (idleWith []) ∧
    (∃ s', exec (.data 0xFF) (small .receivingFrame 4 1 0 [0xFF] 5) = .next s' ∧ s'.fb = [(1, 0xFF)]) ∧
    (∃ s', exec .pulseCycle (pulsingWith []) = .next s' ∧ s'.pulseToggle ≠ (pulsingWith []).pulseToggle) ∧
    (∃ s', exec (.stallP 1) (pulsingWith [0x50, 0, 0, 0, 1]) = .next s' ∧ s'.pulseToggle = true) ∧
    (∃ s', exec (.frame 1) (idleWith [0, 0, 0, 1]) = .next s' ∧ s'.activityTs = 42 ∧ s'.conn ≠ (idleWith []).conn) ∧
    (∃ s', exec .pulse (idleWith hw.cmdToken) = .next s' ∧ s'.rxq = []) :=
  ⟨rfl, ⟨_, rfl, rfl⟩, ⟨_, rfl, by decide⟩, ⟨_, rfl, rfl⟩, ⟨_, rfl, rfl, by decide⟩, ⟨_, rfl, rfl⟩⟩

theorem test_witness_BlitOnlyOfCompleteFrame :
    ∃ s', exec .frameComplete { small .receivingFrame 1 1 0 [] 0 with fb := [(0, 0xFF)] } = .next s' ∧
      .drawInvertedBitmap 0 0 [0xFF] panelW panelH .black ∈ s'.dslog.drop 0 :=
  ⟨_, rfl, .tail _ (.tail _ (.tail _ (.head _)))⟩

/-- Each clause's premise, in a state of its own. -/
theorem test_witness_StepRunsDecodedInstruction :
    idleWith [0, 0, 0, 1] = deliver (idleWith [0, 0, 0, 1]).pending (idleWith [0, 0, 0, 1]) ∧
    decode .idle [0, 0, 0, 1] = .ok (.frame 1) ∧ decode .idle [] = .error .empty ∧
    decode .pulsing [0x50] = .error .commandFragment ∧
    (small .receivingFrame 4 3 500 [] 0).conn = .receivingFrame ∧
    (small .receivingFrame 4 3 500 [7] 0).receivedCnt.toNat < (small .receivingFrame 4 3 500 [7] 0).expectedLen.toNat ∧
    (small .receivingFrame 4 4 500 [7] 0).expectedLen.toNat ≤ (small .receivingFrame 4 4 500 [7] 0).receivedCnt.toNat := by
  decide

theorem test_witness_DrainStoresPayload :
    let s := small .receivingFrame 12480 12478 0 [1, 2, 3] 5
    s.conn = .receivingFrame ∧ s.receivedCnt.toNat ≤ s.expectedLen.toNat ∧ s.expectedLen.toNat ≤ hw.capacity ∧
      drainCount s = 2 := by decide

theorem test_witness_LastByteCompletesFrame :
    let s := { small .receivingFrame 2 1 100 [0xBB, 0x50] 500 with fb := [(0, 0xAA)] }
    s.pending = [] ∧ s.conn = .receivingFrame ∧ s.receivedCnt.toNat < s.expectedLen.toNat ∧
      s.expectedLen.toNat ≤ hw.capacity ∧ [(0xAA : Byte)].length = s.receivedCnt.toNat ∧
      (∀ i (h : i < [(0xAA : Byte)].length), Memory.read s.fb i = some [(0xAA : Byte)][i]) ∧
      remaining s ≤ s.rxq.length ∧ Pages 0 [] s :=
  ⟨rfl, rfl, by decide, by decide, rfl, by decide, by decide, .inr ⟨rfl, rfl, rfl⟩⟩

/-- V19's state: 9000 ms of silence, then a byte. -/
theorem test_witness_LateByteRescuesTransfer :
    let s := small .receivingFrame 4 2 500 [0x77] 9500
    s.pending = [] ∧ s.conn = .receivingFrame ∧ s.expectedLen.toNat ≤ hw.capacity ∧ 1 ≤ s.rxq.length ∧
      s.rxq.length < remaining s := by decide

theorem test_witness_HeaderInterruptsPulse :
    (pulsingWith [0, 0, 0, 1]).pending = [] ∧ (pulsingWith [0, 0, 0, 1]).conn = .pulsing ∧
      (pulsingWith [0, 0, 0, 1]).rxq = 0 :: 0 :: 0 :: 1 :: [] ∧ (0 : Byte) ≠ 0x50 ∧
      lengthValid (be32 0 0 0 1) = true ∧ lengthValid (be32 0 0 0 0) = false := by decide

/-- Every state with both counters 0, nothing written and nothing stored meets the invariant outside ReceivingFrame. -/
theorem inv_of_fresh {s : State} (hc : s.conn ≠ .receivingFrame) (he : s.expectedLen = 0) (hr : s.receivedCnt = 0)
    (hf : s.fb = []) (ht : s.txlog = []) : Inv s where
  idle _ := ⟨he, hr⟩
  active h := absurd h hc
  bounded := ⟨by rw [hf]; rfl, fun c h => by rw [hf] at h; cases h⟩
  stored h := absurd h hc
  lines := ⟨[], ht⟩

/-- A frame of C bytes of which the first has come. -/
theorem test_witness_inv_receiving :
    Inv { small .receivingFrame 12480 1 0 [] 0 with fb := [(0, 0xFF)], txlog := statusLine .ready } where
  idle h := absurd rfl h
  active _ := by decide
  bounded := ⟨by decide, by decide⟩
  stored _ := by decide
  lines := ⟨[.ready], rfl⟩

theorem test_witness_TransitionsAsTabled :
    (idleWith hw.cmdToken).pending = [] ∧ Inv (idleWith hw.cmdToken) ∧
      ∃ s', step (idleWith hw.cmdToken) = .next s' ∧ s'.conn = .pulsing :=
  ⟨rfl, inv_of_fresh (by decide) rfl rfl rfl rfl, _, rfl, rfl⟩

theorem test_witness_PayloadValuesIgnored :
    (small .receivingFrame 4 0 0 [1, 2] 5).pending = [] ∧ (small .receivingFrame 4 0 0 [1, 2] 5).conn = .receivingFrame ∧
      ([0x50, 0x55] : List Byte).length = (small .receivingFrame 4 0 0 [1, 2] 5).rxq.length ∧
      (∃ a, step (small .receivingFrame 4 0 0 [1, 2] 5) = .next a ∧ a.receivedCnt = 2) ∧
      ∃ b, step { small .receivingFrame 4 0 0 [1, 2] 5 with rxq := [0x50, 0x55] } = .next b :=
  ⟨rfl, rfl, rfl, ⟨_, rfl, rfl⟩, _, rfl⟩

theorem test_witness_LogsOnlyGrow : ∃ s', step (idleWith hw.cmdToken) = .next s' ∧ s'.txlog = [0x4F, 0x4B, 0x0A] :=
  ⟨_, rfl, rfl⟩

theorem test_witness_EnvironmentWritesNoRegister : Move.powerOn ∉ [Move.send [1], .adv 5, .pulse, .step] := by decide

/-- A state of the invariant from which a step is taken, and one whose next render call ends. -/
theorem test_witness_StepKeepsInvariant :
    Inv (pulsingWith []) ∧ RenderEnds (pulsingWith []) ∧ ∃ s', step (pulsingWith []) = .next s' :=
  ⟨inv_of_fresh (by decide) rfl rfl rfl rfl, .inl rfl, _, rfl⟩

/-- A state of the invariant whose step hangs. -/
theorem test_witness_OnlyEndlessRenderStops :
    Inv { pulsingWith [] with moreRest := true } ∧ step { pulsingWith [] with moreRest := true } = .fault .renderHang :=
  ⟨inv_of_fresh (by decide) rfl rfl rfl rfl, rfl⟩

theorem test_witness_StallIsForGood :
    Move.powerOn ∉ (pulsingWith [0x50, 0x58, 0x58, 0x58, 0x58]).pending ∧
      (pulsingWith [0x50, 0x58, 0x58, 0x58, 0x58]).conn ≠ .receivingFrame ∧
      stalled (pulsingWith [0x50, 0x58, 0x58, 0x58, 0x58]).rxq = true ∧
      ∃ s', Sys2Proof.core.run 1 (pulsingWith [0x50, 0x58, 0x58, 0x58, 0x58]) = .next s' :=
  ⟨by decide, by decide, by decide, _, rfl⟩

theorem test_witness_QuiescentExactly :
    Inv (idleWith [0x50]) ∧ (idleWith [0x50]).pending = [] ∧ Quiescent (idleWith [0x50]) :=
  ⟨inv_of_fresh (by decide) rfl rfl rfl rfl, rfl, rfl, by decide⟩

theorem two_pieces (n : Nat) (h : n ≠ 0) :
    (∀ p ∈ [[(0xFF : Byte)], List.replicate n 0], p ≠ []) ∧ [[(0xFF : Byte)], List.replicate n 0].flatten.length = n + 1 := by
  simp [h]

/-- The smallest frame, and the largest in two pieces. -/
theorem test_witness_FrameInAnyPieces :
    (1 ≤ (1 : BitVec 32).toNat ∧ (1 : BitVec 32).toNat ≤ hw.capacity ∧ (∀ p ∈ [[(0xFF : Byte)]], p ≠ []) ∧
      [[(0xFF : Byte)]].flatten.length = (1 : BitVec 32).toNat ∧
      ({ idleWith (beBytes 1) with pending := [.step, .send [0xFF], .step] } : State).pending =
        .step :: [[(0xFF : Byte)]].flatMap (fun p => [.send p, .step])) ∧
    ((12480 : BitVec 32).toNat ≤ hw.capacity ∧
      (∀ p ∈ [[(0xFF : Byte)], List.replicate 12479 0], p ≠ []) ∧
      [[(0xFF : Byte)], List.replicate 12479 0].flatten.length = (12480 : BitVec 32).toNat) := by
  exact ⟨by decide, by decide, two_pieces 12479 (by decide)⟩

theorem test_witness_SameFrameTwiceSameBlit :
    let s := idleWith (beBytes 1 ++ [0xFF] ++ (beBytes 1 ++ [0xFF]))
    s.conn = .idle ∧ s.pending = [] ∧ s.moreAnswers = [] ∧ s.moreRest = false ∧ 1 ≤ (1 : BitVec 32).toNat ∧
      (1 : BitVec 32).toNat ≤ hw.capacity ∧ [(0xFF : Byte)].length = (1 : BitVec 32).toNat := by decide

theorem test_witness_PulseColoursAlternate :
    (pulsingWith []).conn = .pulsing ∧ (pulsingWith []).rxq = [] ∧ (pulsingWith []).pending = [] ∧
      (pulsingWith []).moreAnswers = [] ∧ (pulsingWith []).moreRest = false := by decide

theorem test_witness_ElapsedAcrossWrap : 2 ^ hw.timeW - 1 < 2 ^ hw.timeW ∧ (elapsed 1001 4294966296).toNat = 2001 := by decide

/-- The last index of a two-byte bitmap, inside a frame of two bytes and beyond one of one byte. -/
theorem test_witness_SurfaceReadsPayload :
    let s := { idleWith [] with
      dslog := [.drawInvertedBitmap 0 0 [0x80, 0x01] 8 2 .black, .drawInvertedBitmap 0 0 [0x80] 8 2 .black] }
    s.dslog[0]? = some (.drawInvertedBitmap 0 0 [0x80, 0x01] 8 2 .black) ∧ 1 < (8 + 7) / 8 * 2 ∧
      surfaceRead s 0 1 = some 0x01 ∧ surfaceRead s 1 1 = some (Config.staleByte 1 1) ∧ surfaceRead s 0 2 = none :=
  ⟨rfl, by decide, rfl, rfl, rfl⟩

end Sys2Proof.Tests
end

/-! PROOFS. The six rows of 30_encoding.md R85: first the decode predicates as facts about the number of bytes and the
first five of them, then each verdict of `decodeToken` as a decode predicate. -/

namespace Sys2Proof

/-! ### The decode predicates, by length and leading bytes -/

@[simp] theorem rxPeek_zero (q : List Byte) : rxPeek q 0 = q.head? := by
  simp [rxPeek, List.head?_eq_getElem?]

theorem cmdMatch_iff_take {q : List Byte} :
    cmdMatch q = true ↔ hw.cmdLen ≤ q.length ∧ q.take hw.cmdLen = hw.cmdToken := by
  rw [cmdMatch, Bool.and_eq_true, decide_eq_true_eq, beq_iff_eq]

theorem hdrReady_iff_head {q : List Byte} :
    hdrReady q = true ↔ hw.hdrLen ≤ q.length ∧ q.head? ≠ some hw.cmdFirst := by
  rw [hdrReady, rxPeek_zero, Bool.and_eq_true, decide_eq_true_eq, bne_iff_ne]

theorem stalled_iff_take {q : List Byte} :
    stalled q = true ↔
      hw.cmdLen ≤ q.length ∧ q.head? = some hw.cmdFirst ∧ q.take hw.cmdLen ≠ hw.cmdToken := by
  have hm : hw.cmdLen ≤ q.length → (cmdMatch q = false ↔ q.take hw.cmdLen ≠ hw.cmdToken) := fun hl => by
    rw [← Bool.not_eq_true, cmdMatch_iff_take, and_iff_right hl]
  rw [stalled, rxPeek_zero, Bool.and_eq_true, Bool.and_eq_true, decide_eq_true_eq, beq_iff_eq, Bool.not_eq_true',
    and_assoc]
  exact and_congr_right fun hl => and_congr_right fun _ => hm hl

theorem stalled_of_cmdMatch {q : List Byte} (h : cmdMatch q = true) : stalled q = false := by
  simp [stalled, h]

theorem stalled_of_hdrReady {q : List Byte} (h : hdrReady q = true) : stalled q = false := by
  cases hs : stalled q with
  | false => rfl
  | true => rw [hdrReady_of_stalled hs] at h; cases h

theorem cmdMatch_or_stalled {q : List Byte} (hf : q.head? = some hw.cmdFirst) (hl : hw.cmdLen ≤ q.length) :
    cmdMatch q = true ∨ stalled q = true := by
  by_cases ht : q.take hw.cmdLen = hw.cmdToken
  · exact .inl (cmdMatch_iff_take.2 ⟨hl, ht⟩)
  · exact .inr (stalled_iff_take.2 ⟨hl, hf, ht⟩)

/-- No row of R85 but a pending one applies exactly if the queue is shorter than the token its first byte announces. -/
theorem noToken_iff {q : List Byte} :
    (cmdMatch q = false ∧ hdrReady q = false ∧ stalled q = false) ↔
      q.length < (if q.head? = some hw.cmdFirst then hw.cmdLen else hw.hdrLen) := by
  split
  case isTrue hf =>
    constructor
    · rintro ⟨hm, -, hs⟩
      by_contra hl
      rcases cmdMatch_or_stalled hf (not_lt.1 hl) with h | h
      · simp [hm] at h
      · simp [hs] at h
    · intro hl
      simp only [← Bool.not_eq_true, cmdMatch_iff_take, hdrReady_iff_head, stalled_iff_take]
      exact ⟨fun h => not_lt.2 h.1 hl, fun h => h.2 hf, fun h => not_lt.2 h.1 hl⟩
  case isFalse hf =>
    constructor
    · rintro ⟨-, hh, -⟩
      by_contra hl
      simp [hdrReady_iff_head.2 ⟨not_lt.1 hl, hf⟩] at hh
    · intro hl
      have hc : ¬ hw.cmdLen ≤ q.length := by rw [hw_hdrLen] at hl; rw [hw_cmdLen]; omega
      simp only [← Bool.not_eq_true, cmdMatch_iff_take, hdrReady_iff_head, stalled_iff_take]
      exact ⟨fun h => hc h.1, fun h => not_lt.2 h.1 hl, fun h => hc h.1⟩

/-! ### The pending rows -/

theorem pendingReason_eq_empty_iff {q : List Byte} : pendingReason q = .empty ↔ q.length = 0 := by
  cases q with
  | nil => simp [pendingReason]
  | cons h q => simp only [pendingReason]; split <;> simp

theorem pendingReason_eq_headerFragment_iff {q : List Byte} :
    pendingReason q = .headerFragment ↔ 1 ≤ q.length ∧ q.head? ≠ some hw.cmdFirst := by
  cases q with
  | nil => simp [pendingReason]
  | cons h q => simp [pendingReason]

theorem pendingReason_eq_commandFragment_iff {q : List Byte} :
    pendingReason q = .commandFragment ↔ q.head? = some hw.cmdFirst := by
  cases q with
  | nil => simp [pendingReason]
  | cons h q => simp [pendingReason]

/-! ### The verdicts of `decodeToken` -/

theorem headerInstr_ne_command {cmd : Instr} (hcmd : cmd = .pulse ∨ cmd = .pulseP) (L : BitVec 32) :
    headerInstr L ≠ cmd := by
  rcases hcmd with rfl | rfl <;> rcases headerInstr_cases L with ⟨-, h⟩ | ⟨-, h⟩ | ⟨-, h⟩ <;> simp [h]

theorem headerInstr_ne_stallP (L x : BitVec 32) : headerInstr L ≠ .stallP x := by
  rcases headerInstr_cases L with ⟨-, h⟩ | ⟨-, h⟩ | ⟨-, h⟩ <;> simp [h]

theorem stallP_ne_command {cmd : Instr} (hcmd : cmd = .pulse ∨ cmd = .pulseP) (x : BitVec 32) :
    Instr.stallP x ≠ cmd := by
  rcases hcmd with rfl | rfl <;> simp

theorem decodeToken_eq_command_iff {cmd : Instr} (hcmd : cmd = .pulse ∨ cmd = .pulseP) {q : List Byte} :
    decodeToken cmd q = .ok cmd ↔ cmdMatch q = true := by
  rcases decodeToken_cases cmd q with ⟨hm, hd⟩ | ⟨hm, -, L, -, hd⟩ | ⟨hm, -, -, x, -, hd⟩ | ⟨hm, -, -, hd⟩
  · simp [hm, hd]
  · simp [hm, hd, headerInstr_ne_command hcmd L]
  · simp [hm, hd, stallP_ne_command hcmd x]
  · simp [hm, hd]

theorem decodeToken_eq_header_iff {cmd : Instr} (hcmd : cmd = .pulse ∨ cmd = .pulseP) {q : List Byte} :
    (∃ L, decodeToken cmd q = .ok (headerInstr L) ∧ headerLength q = some L) ↔ hdrReady q = true := by
  rcases decodeToken_cases cmd q with ⟨hm, hd⟩ | ⟨-, hh, L, hL, hd⟩ | ⟨-, hh, -, x, -, hd⟩ | ⟨-, hh, -, hd⟩
  · simp [hdrReady_of_cmdMatch hm, hd, (headerInstr_ne_command hcmd _).symm]
  · simp [hh, hd, hL]
  · simp [hh, hd, (headerInstr_ne_stallP _ x).symm]
  · simp [hh, hd]

theorem decodeToken_eq_stallP_iff {cmd : Instr} (hcmd : cmd = .pulse ∨ cmd = .pulseP) {q : List Byte} :
    (∃ x, decodeToken cmd q = .ok (.stallP x)) ↔ stalled q = true := by
  rcases decodeToken_cases cmd q with ⟨hm, hd⟩ | ⟨-, hh, L, -, hd⟩ | ⟨-, -, hs, x, -, hd⟩ | ⟨-, -, hs, hd⟩
  · simp [stalled_of_cmdMatch hm, hd, (stallP_ne_command hcmd _).symm]
  · simp [stalled_of_hdrReady hh, hd, headerInstr_ne_stallP]
  · simp [hs, hd]
  · simp [hs, hd]

theorem decodeToken_eq_error_iff {cmd : Instr} {q : List Byte} {p : Pending} :
    decodeToken cmd q = .error p ↔
      (cmdMatch q = false ∧ hdrReady q = false ∧ stalled q = false) ∧ pendingReason q = p := by
  rcases decodeToken_cases cmd q with ⟨hm, hd⟩ | ⟨-, hh, L, -, hd⟩ | ⟨-, -, hs, x, -, hd⟩ | ⟨hm, hh, hs, hd⟩
  · simp [hm, hd]
  · simp [hh, hd]
  · simp [hs, hd]
  · simp [hm, hh, hs, hd]

theorem decodeToken_eq_empty_iff {cmd : Instr} {q : List Byte} :
    decodeToken cmd q = .error .empty ↔ q.length = 0 := by
  rw [decodeToken_eq_error_iff, pendingReason_eq_empty_iff, noToken_iff, and_iff_right_iff_imp]
  intro h0
  rw [h0]
  split <;> decide

theorem decodeToken_eq_headerFragment_iff {cmd : Instr} {q : List Byte} :
    decodeToken cmd q = .error .headerFragment ↔
      1 ≤ q.length ∧ q.length < hw.hdrLen ∧ q.head? ≠ some hw.cmdFirst := by
  rw [decodeToken_eq_error_iff, pendingReason_eq_headerFragment_iff, noToken_iff, and_left_comm]
  refine and_congr_right fun _ => and_congr_left fun hf => ?_
  rw [if_neg hf]

theorem decodeToken_eq_commandFragment_iff {cmd : Instr} {q : List Byte} :
    decodeToken cmd q = .error .commandFragment ↔
      1 ≤ q.length ∧ q.length < hw.cmdLen ∧ q.head? = some hw.cmdFirst := by
  rw [decodeToken_eq_error_iff, pendingReason_eq_commandFragment_iff, noToken_iff, ← and_assoc]
  refine and_congr_left fun hf => ?_
  have h1 : 1 ≤ q.length := List.length_pos_iff.2 (by rintro rfl; cases hf)
  rw [if_pos hf, and_iff_right h1]

/-- Settles O5: each verdict is one decode predicate, or the absence of all three with its pending reason. -/
theorem decoderVerdicts : Obligations.DecoderVerdicts := by
  intro c cmd q h
  have hcmd : cmd = .pulse ∨ cmd = .pulseP := h.imp And.right And.right
  have hd : decode c q = decodeToken cmd q := by
    rcases h with ⟨rfl, rfl⟩ | ⟨rfl, rfl⟩ <;> rfl
  rw [hd]
  exact ⟨(decodeToken_eq_command_iff hcmd).trans cmdMatch_iff_take,
    (decodeToken_eq_header_iff hcmd).trans hdrReady_iff_head,
    decodeToken_eq_empty_iff,
    decodeToken_eq_headerFragment_iff,
    decodeToken_eq_commandFragment_iff,
    (decodeToken_eq_stallP_iff hcmd).trans stalled_iff_take⟩

end Sys2Proof

/-! PROOFS. The common operations of 40_common_ops.md: the rejected header (R116, R161) and the status lines (R113). -/

namespace Sys2Proof.Machine

/-! ### A header at the head of the queue -/

theorem hdrReady_beBytes {L : BitVec 32} (hb : topByte L ≠ hw.cmdFirst) (rest : List Byte) :
    hdrReady (beBytes L ++ rest) = true :=
  hdrReady_iff.2 ⟨_, _, _, _, rest, beBytes_append L rest, hb⟩

theorem headerIs_beBytes {s : State} {L : BitVec 32} {rest : List Byte} (hq : s.rxq = beBytes L ++ rest)
    (hb : topByte L ≠ hw.cmdFirst) : headerIs L s = true := by
  have hh : hdrReady s.rxq = true := hq ▸ hdrReady_beBytes hb rest
  have hl : headerLength s.rxq = some L := hq ▸ headerLength_beBytes L rest
  simp [headerIs, cmdMatch_of_hdrReady hh, hh, hl]

theorem hdrLen_le_of_beBytes {s : State} {L : BitVec 32} {rest : List Byte} (hq : s.rxq = beBytes L ++ rest) :
    hw.hdrLen ≤ s.rxq.length := by
  simp [hq, beBytes]

/-! ### The rejected header -/

/-- The four consumed bytes leave no trace: the flush takes them with the rest of the queue (R114). -/
theorem headerReject_setRxq (q : List Byte) (s : State) :
    headerReject (setRxq q s) =
      { s with rxq := [], txlog := s.txlog ++ statusLine .errLen, expectedLen := 0, receivedCnt := 0, conn := .idle } :=
  rfl

theorem interpretHeader_of_not_lengthValid {L : BitVec 32} {s : State} (hn : hw.hdrLen ≤ s.rxq.length)
    (hv : lengthValid L = false) :
    interpretHeader L s = .next
      { s with
        rxq := [], txlog := s.txlog ++ statusLine .errLen, expectedLen := 0, receivedCnt := 0, conn := .idle } := by
  have hr : (L.toNat = 0 || decide (hw.capacity < L.toNat)) = true := by
    rwa [← Bool.not_eq_true, lengthValid_iff, Bool.not_eq_false] at hv
  rw [interpretHeader, rxPopN_next hn, andThen_next, if_pos hr, headerReject_setRxq]

theorem lengthValid_eq_false_of_big {L : BitVec 32} (h : hw.capacity < L.toNat) : lengthValid L = false := by
  rw [← Bool.not_eq_true, lengthValid_eq_true]
  exact fun hv => not_lt.2 hv.2 h

/-- Settles O11: the condition of either row holds at such a queue, and a length that is not valid is rejected. -/
theorem invalidHeaderRejected : Obligations.InvalidHeaderRejected := by
  intro s L rest hc hq hb
  have hd : decodesTokens s = true := decodesTokens_iff.2 hc
  have hi : headerIs L s = true := headerIs_beBytes hq hb
  have hn : hw.hdrLen ≤ s.rxq.length := hdrLen_le_of_beBytes hq
  constructor
  · rintro rfl
    have hsel : (decodesTokens s && headerIs 0 s) = true := by rw [hd, hi]; rfl
    exact (whenSelected_true _ hsel).trans (interpretHeader_of_not_lengthValid hn rfl)
  · intro hbig
    have hsel : (decodesTokens s && headerIs L s && decide (hw.capacity < L.toNat)) = true := by
      rw [hd, hi, decide_eq_true hbig]; rfl
    exact (whenSelected_true _ hsel).trans
      (interpretHeader_of_not_lengthValid hn (lengthValid_eq_false_of_big hbig))

/-! ### The status lines -/

theorem emitStatus_eq (st : Status) (s : State) :
    emitStatus st s = { s with txlog := s.txlog ++ statusText st ++ hw.nl } := by
  rw [emitStatus, txWrite, statusLine, List.append_assoc]

/-- Settles O20: the five rows are `emitStatus` of their lines, whose texts are those of R90. -/
theorem statusLinesWritten : Obligations.StatusLinesWritten := by
  intro s
  have h (st : Status) : exec (statusInstr st) s = .next { s with txlog := s.txlog ++ statusText st ++ hw.nl } := by
    rw [execStatus_eq, emitStatus_eq]
  exact ⟨h .ok, h .ready, h .errLen, h .errTimeout, h .done⟩

end Sys2Proof.Machine

/-! PROOFS. The operations of Idle: the command token (41_idle.md R130) and the wait (R133). -/

namespace Sys2Proof.Machine

/-! ### A command token at the head of the queue -/

theorem cmdMatch_cmdToken_append (rest : List Byte) : cmdMatch (hw.cmdToken ++ rest) = true :=
  cmdMatch_iff.2 ⟨rest, rfl⟩

theorem rxPopN_cmdLen {s : State} {rest : List Byte} (hq : s.rxq = hw.cmdToken ++ rest) :
    rxPopN hw.cmdLen s = .next (setRxq rest s) := by
  have hl : hw.cmdLen ≤ s.rxq.length := by simp [hq]
  have hd : s.rxq.drop hw.cmdLen = rest := by rw [hq]; exact List.drop_left' rfl
  rw [rxPopN_next hl, hd]

/-- Settles O8: the row's condition holds at such a queue, and popping the token leaves the rest of it. -/
theorem pulseAcceptedInIdle : Obligations.PulseAcceptedInIdle := by
  intro s rest hc hq
  have hsel : (s.conn == .idle && cmdMatch s.rxq) = true := by
    rw [hc, hq, cmdMatch_cmdToken_append]; rfl
  refine (whenSelected_true _ hsel).trans ?_
  rw [rxPopN_cmdLen hq]
  rfl

/-! ### The wait -/

/-- Each pending form of R133, and the stalled one, rules out both tokens. -/
theorem noToken_of_waitForm {s : State}
    (h : s.rxq = [] ∨ (s.rxq.length < hw.hdrLen ∧ s.rxq.head? ≠ some hw.cmdFirst) ∨
      (s.rxq.length < hw.cmdLen ∧ s.rxq.head? = some hw.cmdFirst) ∨
      (hw.cmdLen ≤ s.rxq.length ∧ s.rxq.head? = some hw.cmdFirst ∧ s.rxq.take hw.cmdLen ≠ hw.cmdToken)) :
    noToken s = true := by
  simp only [noToken_eq_true, ← Bool.not_eq_true, cmdMatch_iff_take, hdrReady_iff_head]
  rcases h with hq | ⟨hl, -⟩ | ⟨hl, hf⟩ | ⟨-, hf, ht⟩
  · simp [hq]
  · have hc : s.rxq.length < hw.cmdLen := hl.trans (by decide)
    exact ⟨fun h => not_lt.2 h.1 hc, fun h => not_lt.2 h.1 hl⟩
  · exact ⟨fun h => not_lt.2 h.1 hl, fun h => h.2 hf⟩
  · exact ⟨fun h => ht h.2, fun h => h.2 hf⟩

theorem execIdleWait_next {s : State} (hc : s.conn = .idle) (hn : noToken s = true) :
    exec .idleWait s = .next s :=
  whenSelected_true _ (by rw [hc, hn]; rfl)

theorem execStallP_next_of_idle {s : State} {x : BitVec 32} (hc : s.conn = .idle) (hs : stalled s.rxq = true)
    (hx : stallTail s.rxq = some x) : exec (.stallP x) s = .next s := by
  have hsel : (decodesTokens s && stalledWith x s) = true := by
    simp [decodesTokens, stalledWith, hc, hs, hx, hdrReady_of_stalled hs]
  refine (whenSelected_true _ hsel).trans ?_
  rw [hc]
  rfl

/-- With no token at the head of the queue, Idle runs `STALL.P` or `IDLE.WAIT`, and neither does anything. -/
theorem step_of_idle_noToken {s : State} (hc : s.conn = .idle) (hn : noToken s = true) (hp : s.pending = []) :
    step s = .next s := by
  obtain ⟨hm, hh⟩ := noToken_eq_true.1 hn
  rw [step_of_no_pending hp, blockStep_tokens (by rw [hc]; decide), hc]
  rcases decodeToken_cases .pulse s.rxq with ⟨hm', -⟩ | ⟨-, hh', -⟩ | ⟨-, -, hs, x, hx, hd⟩ | ⟨-, -, -, hd⟩
  · simp [hm] at hm'
  · simp [hh] at hh'
  · have hsel : select .idle s.rxq = .stallP x := by simp [select, decode, hd]
    rw [hsel, execStallP_next_of_idle hc hs hx]
  · have hsel : select .idle s.rxq = .idleWait := by simp [select, decode, hd]
    rw [hsel, execIdleWait_next hc hn]

/-- Settles O13: each form rules out both tokens, and without one neither the operation nor a step of Idle changes
anything; the clock is no part of the form. -/
theorem idleWaitsUnchanged : Obligations.IdleWaitsUnchanged := by
  intro s hc hq
  have hn : noToken s = true := noToken_of_waitForm hq
  exact ⟨execIdleWait_next hc hn, fun hp t => step_of_idle_noToken (s := { s with now := t }) hc hn hp⟩

end Sys2Proof.Machine

/-! PROOFS. The operations of ReceivingFrame: the wait (43_receiving.md R153). -/

namespace Sys2Proof.Machine

theorem execRecvWait_next {s : State} (hc : s.conn = .receivingFrame) (ho : frameOpen s = true)
    (ht : timedOut s = false) : exec .recvWait s = .next s :=
  whenSelected_true _ (by rw [hc, ho, ht]; rfl)

theorem frameFull_of_frameOpen {s : State} (ho : frameOpen s = true) : frameFull s = false := by
  rw [← Bool.not_eq_true, frameFull_eq_true]
  exact fun he => (frameOpen_eq_true.1 ho).ne (congrArg BitVec.toNat he)

theorem closing_eq_recvWait {s : State} (ho : frameOpen s = true) (ht : timedOut s = false) :
    closing s = .recvWait := by
  simp [closing, frameFull_of_frameOpen ho, ht]

/-- With no byte to drain, a step of ReceivingFrame is its closing operation alone. -/
theorem step_of_receiving_empty {s : State} (hc : s.conn = .receivingFrame) (hp : s.pending = [])
    (hq : s.rxq = []) : step s = exec (closing s) s := by
  rw [step_of_no_pending hp, blockStep_receiving hc, hq, drain, andThen_next]

/-- Settles O19: the row's condition is the premise, and with nothing to drain it is the operation that closes the step. -/
theorem receiveWaitsUnchanged : Obligations.ReceiveWaitsUnchanged := by
  intro s hc hlt hle
  have ho : frameOpen s = true := frameOpen_eq_true.2 hlt
  have ht : timedOut s = false := timedOut_eq_false.2 hle
  have hx : exec .recvWait s = .next s := execRecvWait_next hc ho ht
  refine ⟨hx, fun hp hq => ?_⟩
  rw [step_of_receiving_empty hc hp hq, closing_eq_recvWait ho ht, hx]

end Sys2Proof.Machine

/-! PROOFS. The exceptions: the recovery sequence (60_exceptions.md R169) and the payload timeout (R162). -/

namespace Sys2Proof.Machine

/-- The recovery sequence as one update of the state: it reads only the exception's code and writes five fields. -/
theorem takeException_eq (e : Exc) (s : State) :
    takeException e s =
      { s with
        rxq := [], txlog := s.txlog ++ statusLine (excStatus e), expectedLen := 0, receivedCnt := 0, conn := .idle } :=
  rfl

theorem execFrameTimeout_next {s : State} (hc : s.conn = .receivingFrame) (ho : frameOpen s = true)
    (ht : timedOut s = true) : exec .frameTimeout s = .next (takeException .payloadTimeout s) :=
  whenSelected_true _ (by rw [hc, ho, ht]; rfl)

/-- Settles O18: the three premises are the row's condition, and what it then runs is the recovery sequence. -/
theorem payloadTimesOut : Obligations.PayloadTimesOut := by
  intro s hc hlt hgt
  have ho : frameOpen s = true := frameOpen_eq_true.2 hlt
  have ht : timedOut s = true := timedOut_eq_true.2 hgt
  rw [execFrameTimeout_next hc ho ht, takeException_eq, excStatus]

end Sys2Proof.Machine

/-! PROOFS. Decoder and encoder agree (30_encoding.md sections 1 to 5): each token is read back from its bytes, and what
is read has its bytes at the head of the queue. -/

namespace Sys2Proof

/-! ### Each token at the head of a queue -/

theorem decodeToken_of_stalled {q : List Byte} {x : BitVec 32} (hs : stalled q = true) (hx : stallTail q = some x)
    (cmd : Instr) : decodeToken cmd q = .ok (.stallP x) := by
  rw [decodeToken, cmdMatch_of_stalled hs, hdrReady_of_stalled hs, hs, hx]
  rfl

theorem decode_beBytes {c : Conn} (hc : c ≠ .receivingFrame) {L : BitVec 32} (hb : topByte L ≠ hw.cmdFirst)
    (rest : List Byte) : decode c (beBytes L ++ rest) = .ok (headerInstr L) := by
  rw [beBytes_append, decode_header hc hb, be32_beBytes]

theorem decode_stalled_beBytes {c : Conn} (hc : c ≠ .receivingFrame) {x : BitVec 32}
    (hx : hw.cmdFirst :: beBytes x ≠ hw.cmdToken) (rest : List Byte) :
    decode c (hw.cmdFirst :: beBytes x ++ rest) = .ok (.stallP x) := by
  obtain ⟨hs, ht⟩ := stalled_head hx rest
  obtain ⟨cmd, -, hd⟩ := decode_tokens hc (hw.cmdFirst :: beBytes x ++ rest)
  rw [hd, decodeToken_of_stalled hs ht]

/-- The rows decoded in Idle and in Pulsing are not decoded in ReceivingFrame (R84). -/
theorem idle_or_pulsing_iff {c : Conn} : (c == .idle || c == .pulsing) = true ↔ c ≠ .receivingFrame := by
  cases c <;> decide

/-- Settles O2: by the rows of the opcode table; a header's class is fixed by its well-formedness, and the rows that no
token selects are decoded in no Connection State. -/
theorem decodeOfEncode : Obligations.DecodeOfEncode := by
  intro i c rest hw' hd
  cases i with
  | pulse =>
    obtain rfl : c = .idle := by simpa [decodedIn] using hd
    exact (decodeToken_eq_command_iff (.inl rfl)).2 (Machine.cmdMatch_cmdToken_append rest)
  | pulseP =>
    obtain rfl : c = .pulsing := by simpa [decodedIn] using hd
    exact (decodeToken_eq_command_iff (.inr rfl)).2 (Machine.cmdMatch_cmdToken_append rest)
  | frame L =>
    rw [encode, decode_beBytes (idle_or_pulsing_iff.1 hd) (topByte_valid hw'), headerInstr_valid hw']
  | frameZero =>
    rw [encode, decode_beBytes (idle_or_pulsing_iff.1 hd) (by decide), headerInstr_zero]
  | frameBig L =>
    obtain ⟨hbig, hb⟩ : hw.capacity < L.toNat ∧ topByte L ≠ hw.cmdFirst := by
      simpa only [WellFormed, Bool.and_eq_true, decide_eq_true_eq, bne_iff_ne] using hw'
    rw [encode, decode_beBytes (idle_or_pulsing_iff.1 hd) hb, headerInstr_big hbig]
  | data d =>
    obtain rfl : c = .receivingFrame := by simpa [decodedIn] using hd
    rfl
  | stallP x => exact decode_stalled_beBytes (idle_or_pulsing_iff.1 hd) (bne_iff_ne.1 hw') rest
  | idleWait | pulseCycle | frameComplete | frameTimeout | recvWait | ok | ready | errLen | errTimeout | done =>
    cases hd

/-! ### What was decoded stands at the head of the queue -/

/-- The four bytes of a `HDR4` token are the encoding of its length, and the first of them is no `CMD_FIRST`. -/
theorem header_of_hdrReady {q : List Byte} {L : BitVec 32} (hh : hdrReady q = true) (hL : headerLength q = some L) :
    topByte L ≠ hw.cmdFirst ∧ beBytes L <+: q := by
  obtain ⟨b0, b1, b2, b3, rest, rfl, hb⟩ := hdrReady_iff.1 hh
  obtain rfl : be32 b0 b1 b2 b3 = L := Option.some.inj hL
  rw [topByte_be32, beBytes_be32]
  exact ⟨hb, rest, rfl⟩

theorem stallP_of_stalled {q : List Byte} {x : BitVec 32} (hs : stalled q = true) (hx : stallTail q = some x) :
    WellFormed (.stallP x) = true ∧ encode (.stallP x) <+: q := by
  obtain ⟨x0, x1, x2, x3, rest, rfl, hne⟩ := stalled_iff.1 hs
  obtain rfl : be32 x0 x1 x2 x3 = x := Option.some.inj hx
  rw [WellFormed, encode, beBytes_be32, bne_iff_ne]
  refine ⟨fun h => hne ?_, rest, rfl⟩
  simpa using h

/-- The classes of R87 give a header instruction its operand constraint. -/
theorem headerInstr_wellFormed {L : BitVec 32} (hb : topByte L ≠ hw.cmdFirst) :
    WellFormed (headerInstr L) = true ∧ encode (headerInstr L) = beBytes L := by
  rcases headerInstr_cases L with ⟨rfl, h⟩ | ⟨hv, h⟩ | ⟨hbig, h⟩ <;> rw [h]
  · exact ⟨rfl, rfl⟩
  · exact ⟨hv, rfl⟩
  · refine ⟨?_, rfl⟩
    rw [WellFormed, Bool.and_eq_true, decide_eq_true_eq, bne_iff_ne]
    exact ⟨hbig, hb⟩

theorem decodedIn_headerInstr {c : Conn} (hc : c ≠ .receivingFrame) (L : BitVec 32) :
    decodedIn (headerInstr L) c = true := by
  rcases headerInstr_cases L with ⟨-, h⟩ | ⟨-, h⟩ | ⟨-, h⟩ <;> rw [h] <;> exact idle_or_pulsing_iff.2 hc

/-- Settles O3: the three verdicts of the decoder in Idle and Pulsing that read a token, and the payload byte of
ReceivingFrame. -/
theorem encodeOfDecode : Obligations.EncodeOfDecode := by
  intro c q i h
  by_cases hc : c = .receivingFrame
  · subst hc
    cases q with
    | nil => cases h
    | cons d rest =>
      cases h
      exact ⟨rfl, rfl, rest, rfl⟩
  · obtain ⟨cmd, hcmd, hd⟩ := decode_tokens hc q
    rw [hd] at h
    rcases decodeToken_cases cmd q with ⟨hm, hd⟩ | ⟨-, hh, L, hL, hd⟩ | ⟨-, -, hs, x, hx, hd⟩ | ⟨-, -, -, hd⟩ <;>
      rw [hd] at h <;> cases h
    · obtain ⟨rest, rfl⟩ := cmdMatch_iff.1 hm
      rcases hcmd with ⟨rfl, rfl⟩ | ⟨rfl, rfl⟩ <;> exact ⟨rfl, rfl, rest, rfl⟩
    · obtain ⟨hb, hp⟩ := header_of_hdrReady hh hL
      obtain ⟨hwf, he⟩ := headerInstr_wellFormed hb
      exact ⟨hwf, decodedIn_headerInstr hc L, he ▸ hp⟩
    · obtain ⟨hwf, hp⟩ := stallP_of_stalled hs hx
      exact ⟨hwf, idle_or_pulsing_iff.2 hc, hp⟩

/-! ### How far the decoder looks -/

theorem cmdMatch_take (q : List Byte) : cmdMatch (q.take hw.lookahead) = cmdMatch q := by
  rw [Bool.eq_iff_iff, cmdMatch_iff_take, cmdMatch_iff_take, List.length_take, hw_lookahead, hw_cmdLen, List.take_take]
  simp

theorem head?_take_lookahead (q : List Byte) : (q.take hw.lookahead).head? = q.head? := by
  cases q <;> rfl

theorem hdrReady_take (q : List Byte) : hdrReady (q.take hw.lookahead) = hdrReady q := by
  rw [Bool.eq_iff_iff, hdrReady_iff_head, hdrReady_iff_head, head?_take_lookahead, List.length_take, hw_lookahead,
    hw_hdrLen]
  exact and_congr_left fun _ => by omega

theorem stalled_take (q : List Byte) : stalled (q.take hw.lookahead) = stalled q := by
  rw [Bool.eq_iff_iff, stalled_iff_take, stalled_iff_take, head?_take_lookahead, List.length_take, hw_lookahead,
    hw_cmdLen, List.take_take]
  simp

theorem headerLength_take (q : List Byte) : headerLength (q.take hw.lookahead) = headerLength q := by
  match q with
  | [] | [_] | [_, _] | [_, _, _] | _ :: _ :: _ :: _ :: _ => rfl

theorem stallTail_take (q : List Byte) : stallTail (q.take hw.lookahead) = stallTail q := by
  match q with
  | [] | [_] | [_, _] | [_, _, _] | [_, _, _, _] | _ :: _ :: _ :: _ :: _ :: _ => rfl

theorem pendingReason_take (q : List Byte) : pendingReason (q.take hw.lookahead) = pendingReason q := by
  cases q <;> rfl

theorem decode_take (c : Conn) (q : List Byte) : decode c (q.take hw.lookahead) = decode c q := by
  by_cases hc : c = .receivingFrame
  · subst hc
    cases q <;> rfl
  · have h (cmd : Instr) : decodeToken cmd (q.take hw.lookahead) = decodeToken cmd q := by
      simp only [decodeToken, cmdMatch_take, hdrReady_take, stalled_take, headerLength_take, stallTail_take,
        pendingReason_take]
    cases c with
    | idle => exact h .pulse
    | pulsing => exact h .pulseP
    | receivingFrame => exact absurd rfl hc

/-- Settles O6: the decoder's verdict is that on the first `LOOKAHEAD` bytes. -/
theorem lookaheadSuffices : Obligations.LookaheadSuffices := by
  intro c q q' h
  rw [← decode_take c q, h, decode_take]

/-! ### The classes of a length by its bytes -/

theorem be32_eq_zero_iff {b0 b1 b2 b3 : Byte} :
    be32 b0 b1 b2 b3 = 0 ↔ b0 = 0 ∧ b1 = 0 ∧ b2 = 0 ∧ b3 = 0 := by
  have hz (b : Byte) : b = 0 ↔ b.toNat = 0 := BitVec.toNat_eq
  rw [hz b0, hz b1, hz b2, hz b3, BitVec.toNat_eq, be32_toNat]
  simp only [BitVec.ofNat_eq_ofNat, BitVec.toNat_ofNat]
  omega

/-- A length is at most `C` = 0x30C0 by its bytes, the first two 0 and the last two compared in order (R87). -/
theorem be32_le_capacity_iff {b0 b1 b2 b3 : Byte} :
    (be32 b0 b1 b2 b3).toNat ≤ hw.capacity ↔
      b0 = 0 ∧ b1 = 0 ∧ (b2.toNat < 0x30 ∨ (b2 = 0x30 ∧ b3.toNat ≤ 0xC0)) := by
  have h2 := b2.isLt; have h3 := b3.isLt
  have hz (b : Byte) : b = 0 ↔ b.toNat = 0 := BitVec.toNat_eq
  have h30 : b2 = 0x30 ↔ b2.toNat = 0x30 := BitVec.toNat_eq
  rw [hz b0, hz b1, h30, be32_toNat, hw_capacity]
  omega

/-- Settles O7: the decoder reads the header's class, and the two byte patterns are the two comparisons of R87. -/
theorem lengthClasses : Obligations.LengthClasses := by
  intro c b0 b1 b2 b3 rest hc hb
  rw [decode_header hc hb]
  simp only [← be32_eq_zero_iff, ← be32_le_capacity_iff]
  split
  · next h => rw [h, headerInstr_zero]
  · next h0 =>
    split
    · next hle =>
      have h1 : (be32 b0 b1 b2 b3).toNat ≠ 0 := fun e => h0 (BitVec.eq_of_toNat_eq e)
      rw [headerInstr_valid (lengthValid_eq_true.2 ⟨Nat.pos_of_ne_zero h1, hle⟩)]
    · next hgt => rw [headerInstr_big (not_le.1 hgt)]

/-! ### Fixed words and status lines -/

/-- Settles O1: each word is decoded, and each line encoded, by evaluation. -/
theorem specWordsDecode : Obligations.SpecWordsDecode := by
  unfold Obligations.SpecWordsDecode
  decide

/-- Settles O4: `decodeStatus` finds the one status whose line the bytes are. -/
theorem statusLinesReadBack : Obligations.StatusLinesReadBack := by
  intro q st
  constructor
  · intro h
    exact beq_iff_eq.1 (List.find?_some (p := fun st => q == statusLine st) h)
  · rintro rfl
    cases st <;> decide

end Sys2Proof

/-! PROOFS. What each operation does where its condition holds (40_common_ops.md, 41_idle.md to 43_receiving.md): first
the render call of a given number of pages, then the operations that make one, then the rest. -/

namespace Sys2Proof.Machine

variable {s : State}

/-! ### The render call -/

theorem pageLoop_replicate_true (body : List DsCall) (rest : Bool) (k : Nat) (as : List Bool) :
    pageLoop body rest (List.replicate k true ++ as) =
      (pageLoop body rest as).map fun p =>
        ((List.replicate k (body ++ [.isMoreToRender true])).flatten ++ p.1, p.2) := by
  induction k with
  | zero => simp
  | succ k ih =>
    simp only [List.replicate_succ, List.cons_append, pageLoop, if_true, ih]
    cases pageLoop body rest as <;> simp

theorem pageLoop_of_pages {k : Nat} {left : List Bool} (h : Pages k left s) (body : List DsCall) :
    pageLoop body s.moreRest s.moreAnswers =
      some ((List.replicate k (body ++ [.isMoreToRender true])).flatten ++ body ++ [.isMoreToRender false], left) := by
  rcases h with h | ⟨h, hr, rfl⟩
  · rw [h, pageLoop_replicate_true]
    simp [pageLoop]
  · rw [h, ← List.append_nil (List.replicate k true), pageLoop_replicate_true]
    simp [pageLoop, hr]

/-- `Render(body)` of k + 1 pages (R117). -/
theorem render_of_pages {k : Nat} {left : List Bool} (h : Pages k left s) (body : List DsCall) :
    render body s = .next (setMoreAnswers left (dsCalls (renderCalls body k) s)) := by
  rw [render, pageLoop_of_pages h]
  simp [renderCalls]

theorem pages_of_onePage (ha : s.moreAnswers = []) (hr : s.moreRest = false) : Pages 0 [] s :=
  .inr ⟨ha, hr, rfl⟩

theorem render_hangs (hr : s.moreRest = true) (ha : ∀ a ∈ s.moreAnswers, a = true) (body : List DsCall) :
    render body s = .fault .renderHang := by
  have hn : pageLoop body s.moreRest s.moreAnswers = none := by
    rw [← Option.not_isSome_iff_eq_none, pageLoop_isSome_iff]
    rintro (h | h)
    · rw [hr] at h; cases h
    · cases ha _ h
  rw [render, hn]

/-! ### The pulse cycle -/

theorem pulseCycle_of_pages {k : Nat} {left : List Bool} (h : Pages k left s) :
    pulseCycle s =
      .next { s with
        dslog := s.dslog ++ renderCalls [.fill (Config.pulseColor s.pulseToggle)] k
        moreAnswers := left
        pulseToggle := !s.pulseToggle } := by
  rw [pulseCycle, renderFill, render_of_pages h]
  rfl

theorem pulseCycle_hangs (hr : s.moreRest = true) (ha : ∀ a ∈ s.moreAnswers, a = true) :
    pulseCycle s = .fault .renderHang := by
  rw [pulseCycle, renderFill, render_hangs hr ha]
  rfl

theorem execPulseCycle_eq (hc : s.conn = .pulsing) (hn : noToken s = true) : exec .pulseCycle s = pulseCycle s :=
  whenSelected_true _ (by rw [hc, hn]; rfl)

theorem execStallP_of_pulsing {x : BitVec 32} (hc : s.conn = .pulsing) (hs : stalled s.rxq = true)
    (hx : stallTail s.rxq = some x) : exec (.stallP x) s = pulseCycle s := by
  have hsel : (decodesTokens s && stalledWith x s) = true := by
    simp [decodesTokens, stalledWith, hc, hs, hx, hdrReady_of_stalled hs]
  refine (whenSelected_true _ hsel).trans ?_
  rw [hc]
  rfl

/-- Settles O15: the operation's condition is the premise, and the render call is the one of k + 1 pages. -/
theorem pulseCycleDraws : Obligations.PulseCycleDraws := by
  intro s k left hc hn hp
  rw [execPulseCycle_eq hc hn, pulseCycle_of_pages hp]

/-- Settles O14: the premises make the head a stalled one, with which Idle does nothing and Pulsing draws a cycle. -/
theorem stalledHeadKept : Obligations.StalledHeadKept := by
  intro s x rest hq hne
  obtain ⟨hs, hx⟩ : stalled s.rxq = true ∧ stallTail s.rxq = some x := hq ▸ stalled_head hne rest
  refine ⟨fun hc => execStallP_next_of_idle hc hs hx, fun k left hc hp => ?_⟩
  rw [execStallP_of_pulsing hc hs hx, pulseCycle_of_pages hp]

/-! ### Frame completion -/

theorem execFrameComplete_eq (hc : s.conn = .receivingFrame) (hf : s.receivedCnt = s.expectedLen) {frame : List Byte}
    (hr : Memory.readRange s.fb 0 s.expectedLen.toNat = some frame) :
    exec .frameComplete s =
      andThen (render (frameBody frame) s) fun s => .next (setConn .idle (clearCounters (emitStatus .done s))) := by
  have hfull : frameFull s = true := frameFull_eq_true.2 hf
  refine (whenSelected_true _ (by rw [hc, hfull]; rfl)).trans ?_
  rw [renderFrame, if_pos hfull, hr]

/-- Settles O16: the stored bytes are the range that the render reads. -/
theorem completeFrameRendered : Obligations.CompleteFrameRendered := by
  intro s payload k left hc hf hlen hread hp
  have hr : Memory.readRange s.fb 0 s.expectedLen.toNat = some payload :=
    Memory.readRange_eq_some.2 ⟨hlen, fun i hi => by rw [Nat.zero_add]; exact hread i hi⟩
  rw [execFrameComplete_eq hc hf hr, render_of_pages hp]
  rfl

/-- Settles O17: each of the three operations begins with the render call, which hangs whatever its body. -/
theorem endlessRenderHangs : Obligations.EndlessRenderHangs := by
  intro s hr ha
  refine ⟨fun hc hn => ?_, fun x rest hc hq hne => ?_, fun hc hf hread => ?_⟩
  · rw [execPulseCycle_eq hc hn, pulseCycle_hangs hr ha]
  · obtain ⟨hs, hx⟩ : stalled s.rxq = true ∧ stallTail s.rxq = some x := hq ▸ stalled_head hne rest
    rw [execStallP_of_pulsing hc hs hx, pulseCycle_hangs hr ha]
  · obtain ⟨frame, hframe⟩ := Memory.readRange_isSome (i := 0) fun k hk => by rw [Nat.zero_add]; exact hread k hk
    rw [execFrameComplete_eq hc hf hframe, render_hangs hr ha]
    rfl

/-! ### The command token, the header and the payload byte -/

/-- Settles O9: the row's condition holds at such a queue, and popping the token leaves the rest of it. -/
theorem pulseRepeatedInPulsing : Obligations.PulseRepeatedInPulsing := by
  intro s rest hc hq
  have hsel : (s.conn == .pulsing && cmdMatch s.rxq) = true := by
    rw [hc, hq, cmdMatch_cmdToken_append]; rfl
  refine (whenSelected_true _ hsel).trans ?_
  rw [rxPopN_cmdLen hq]
  rfl

theorem interpretHeader_of_lengthValid {L : BitVec 32} (hn : hw.hdrLen ≤ s.rxq.length) (hv : lengthValid L = true) :
    interpretHeader L s = .next (headerAccept L s.now (setRxq (s.rxq.drop hw.hdrLen) s)) := by
  have hr : (L.toNat = 0 || decide (hw.capacity < L.toNat)) = false := (lengthValid_iff L).1 hv
  rw [interpretHeader, rxPopN_next hn, andThen_next, if_neg (by rw [hr]; decide)]
  rfl

theorem drop_hdrLen_beBytes (L : BitVec 32) (rest : List Byte) : (beBytes L ++ rest).drop hw.hdrLen = rest :=
  List.drop_left' rfl

/-- Settles O10: a valid length does not begin with `CMD_FIRST`, so the row's condition holds, and it fits the counter. -/
theorem validHeaderAccepted : Obligations.ValidHeaderAccepted := by
  intro s L rest hc hq h1 hle
  have hv : lengthValid L = true := lengthValid_eq_true.2 ⟨h1, hle⟩
  have hsel : (decodesTokens s && headerIs L s && lengthValid L) = true := by
    rw [decodesTokens_iff.2 hc, headerIs_beBytes hq (topByte_valid hv), hv]; rfl
  refine ⟨_, (whenSelected_true _ hsel).trans (interpretHeader_of_lengthValid (hdrLen_le_of_beBytes hq) hv),
    toNat_setWidth_valid hle, ?_⟩
  rw [hq, drop_hdrLen_beBytes]
  rfl

/-- The state after a `DATA`. -/
def afterData (d : Byte) (s : State) : State :=
  { s with
    rxq := s.rxq.drop 1
    receivedCnt := s.receivedCnt + 1
    activityTs := s.now
    fb := Memory.write s.fb s.receivedCnt.toNat d }

theorem execData_next {d : Byte} (hc : s.conn = .receivingFrame) (hlt : s.receivedCnt.toNat < s.expectedLen.toNat)
    (hle : s.receivedCnt.toNat < hw.capacity) (hd : s.rxq.head? = some d) :
    exec (.data d) s = .next (afterData d s) := by
  have hsel : (s.conn == .receivingFrame && frameOpen s && s.rxq.head? == some d) = true := by
    rw [hc, frameOpen_eq_true.2 hlt, hd]; simp
  have hlen : 1 ≤ s.rxq.length := by
    cases hq : s.rxq with
    | nil => simp [hq] at hd
    | cons b rest => simp
  refine (whenSelected_true _ hsel).trans ?_
  rw [rxPopN_next hlen, andThen_next, setRxq_receivedCnt, memWrite_next hle]
  rfl

/-- Settles O12: the index is below `C`, the count does not wrap, and one write leaves every other index as it was. -/
theorem payloadByteStored : Obligations.PayloadByteStored := by
  intro s d rest hc hlt hle hq
  refine ⟨_, execData_next hc hlt (hlt.trans_le hle) (by rw [hq]; rfl), ?_, toNat_add_one hlt,
    Memory.read_write_same .., fun a ha => Memory.read_write_other _ _ _ _ ha⟩
  rw [afterData, hq]
  rfl

/-! ### Exceptions, and operations outside their states -/

/-- Settles O21: the recovery sequence writes five fields, and its code is the exception's line. -/
theorem recoverySameForBoth : Obligations.RecoverySameForBoth := by
  intro e s
  cases e <;> exact takeException_eq _ s

/-- Settles O22: in each of these states the first conjunct of the operation's condition is false. -/
theorem stopsOutsideItsState : Obligations.StopsOutsideItsState := by
  intro s
  refine ⟨fun hc i hi => ?_, fun hc i hi => ?_, fun hc i hi => ?_, fun hc L => ?_, fun hc d => ?_, fun hc i hi => ?_⟩
  · simp only [List.mem_cons, List.not_mem_nil, or_false] at hi
    rcases hi with rfl | rfl <;> exact whenSelected_false _ (by simp [hc])
  · simp only [List.mem_cons, List.not_mem_nil, or_false] at hi
    rcases hi with rfl | rfl <;> exact whenSelected_false _ (by simp [hc])
  · simp only [List.mem_cons, List.not_mem_nil, or_false] at hi
    rcases hi with rfl | rfl | rfl | rfl | rfl <;> exact whenSelected_false _ (by simp [decodesTokens, hc])
  · have hd : decodesTokens s = false := by simp [decodesTokens, hc]
    exact ⟨whenSelected_false _ (by simp [hd]), whenSelected_false _ (by simp [hd]), whenSelected_false _ (by simp [hd])⟩
  · exact whenSelected_false _ (by simp [hc])
  · simp only [List.mem_cons, List.not_mem_nil, or_false] at hi
    rcases hi with rfl | rfl | rfl <;> exact whenSelected_false _ (by simp [hc])

end Sys2Proof.Machine

/-! PROOFS. Frames: what an instruction changes and what it leaves unchanged (10_state.md sections 1 to 6). -/

namespace Sys2Proof.Machine

/-- What an instruction does to a state when it answers a next state: the shapes of `exec_cases`, each by its name, the
render calls by their pages. -/
inductive Effect (s : State) : Instr → State → Prop
  | pulse : Effect s .pulse (setConn .pulsing (emitStatus .ok (setRxq (s.rxq.drop hw.cmdLen) s)))
  | pulseP : Effect s .pulseP (emitStatus .ok (setRxq (s.rxq.drop hw.cmdLen) s))
  | accept (L : BitVec 32) : Effect s (.frame L) (headerAccept L s.now (setRxq (s.rxq.drop hw.hdrLen) s))
  | rejectZero : Effect s .frameZero (headerReject (setRxq (s.rxq.drop hw.hdrLen) s))
  | rejectBig (L : BitVec 32) : Effect s (.frameBig L) (headerReject (setRxq (s.rxq.drop hw.hdrLen) s))
  | store (d : Byte) : Effect s (.data d) (setActivityTs s.now (setReceivedCnt (s.receivedCnt + 1)
      (setFb (Memory.write s.fb s.receivedCnt.toNat d) (setRxq (s.rxq.drop 1) s))))
  | stall (x : BitVec 32) : Effect s (.stallP x) s
  | idleWait : Effect s .idleWait s
  | recvWait : Effect s .recvWait s
  | cycle (i : Instr) (k : Nat) (left : List Bool) (hi : i = .pulseCycle ∨ ∃ x, i = .stallP x)
      (hc : s.conn = .pulsing) : Effect s i (setPulseToggle (!s.pulseToggle)
        (setMoreAnswers left (dsCalls (renderCalls [.fill (pulseColorOf s)] k) s)))
  | complete (frame : List Byte) (k : Nat) (left : List Bool) (hf : s.receivedCnt = s.expectedLen)
      (hr : Memory.readRange s.fb 0 s.expectedLen.toNat = some frame) :
      Effect s .frameComplete (setConn .idle (clearCounters (emitStatus .done
        (setMoreAnswers left (dsCalls (renderCalls (frameBody frame) k) s)))))
  | timeout : Effect s .frameTimeout (takeException .payloadTimeout s)
  | status (st : Status) : Effect s (statusInstr st) (emitStatus st s)

variable {s s' : State} {i : Instr}

/-- The calls of a paged loop that ended, between the two that open it and the one that closes it. -/
theorem renderCalls_of_pageLoop {body cs : List DsCall} {rest : Bool} {answers left : List Bool}
    (h : pageLoop body rest answers = some (cs, left)) :
    ∃ k, [.setFullWindow, .beginFrame] ++ cs ++ [.powerOff] = renderCalls body k := by
  obtain ⟨k, rfl, -⟩ := pageLoop_eq_some h
  exact ⟨k, by simp [renderCalls]⟩

theorem effect_of_exec (h : exec i s = .next s') : Effect s i s' := by
  rcases exec_cases h with ⟨rfl, rfl⟩ | ⟨rfl, rfl⟩ | ⟨L, rfl, rfl⟩ | ⟨rfl | ⟨L, rfl⟩, rfl⟩ | ⟨d, rfl, rfl⟩ |
    ⟨⟨⟨x, rfl⟩, -⟩ | rfl | rfl, rfl⟩ | ⟨hi, hc, cs, left, hp, rfl⟩ | ⟨rfl, hf, frame, cs, left, hr, hp, rfl⟩ |
    ⟨rfl, rfl⟩ | ⟨st, rfl, rfl⟩
  · exact .pulse
  · exact .pulseP
  · exact .accept L
  · exact .rejectZero
  · exact .rejectBig L
  · exact .store d
  · exact .stall x
  · exact .idleWait
  · exact .recvWait
  · obtain ⟨k, hk⟩ := renderCalls_of_pageLoop hp
    exact hk ▸ .cycle i k left hi.symm hc
  · obtain ⟨k, hk⟩ := renderCalls_of_pageLoop hp
    exact hk ▸ .complete frame k left hf hr
  · exact .timeout
  · exact .status st

/-- Settles O23: only a store writes the buffer, and it writes one index. -/
theorem onlyDataWritesBuffer : Obligations.OnlyDataWritesBuffer := by
  intro i s s' h
  cases effect_of_exec h with
  | store d => exact ⟨fun hi => absurd rfl (hi d), fun _ a ha => Memory.read_write_other _ _ _ _ ha⟩
  | _ => exact ⟨fun _ _ => rfl, fun _ _ _ => rfl⟩

/-- Settles O24: only a pulse cycle writes the toggle. -/
theorem toggleOnlyByPulseCycle : Obligations.ToggleOnlyByPulseCycle := by
  intro i s s' h
  cases effect_of_exec h with
  | cycle _ k left hi hc => exact ⟨.inr rfl, fun _ => ⟨hc, hi⟩⟩
  | _ => exact ⟨.inl rfl, fun hne => absurd rfl hne⟩

/-- Settles O25: an accepted header and a store write the time stamp. -/
theorem activityTsWriters : Obligations.ActivityTsWriters := by
  intro i s s' h
  cases effect_of_exec h with
  | accept L => exact ⟨fun _ => rfl, fun hi _ => absurd rfl (hi L)⟩
  | store d => exact ⟨fun _ => rfl, fun _ hi => absurd rfl (hi d)⟩
  | cycle _ k left hi =>
    refine ⟨?_, fun _ _ => rfl⟩
    rcases hi with rfl | ⟨x, rfl⟩ <;> simp
  | status st => exact ⟨by cases st <;> simp [statusInstr], fun _ _ => rfl⟩
  | _ => exact ⟨by simp, fun _ _ => rfl⟩

/-- Settles O26: of the operations that the premises leave, only a store writes a counter, the received count. -/
theorem counterWriters : Obligations.CounterWriters := by
  intro i s s' h hhdr hzero hcomplete htimeout
  cases effect_of_exec h with
  | accept L => exact absurd rfl (hhdr L).1
  | rejectZero => exact absurd rfl hzero
  | rejectBig L => exact absurd rfl (hhdr L).2
  | store d => exact ⟨rfl, fun hi => absurd rfl (hi d)⟩
  | complete => exact absurd rfl hcomplete
  | timeout => exact absurd rfl htimeout
  | _ => exact ⟨rfl, fun _ => rfl⟩

/-- Settles O27: the writers of the Connection State, each with the state it names. -/
theorem connWriters : Obligations.ConnWriters := by
  intro i s s' h hne
  cases effect_of_exec h with
  | pulse => exact .inl ⟨rfl, rfl⟩
  | accept L => exact .inr (.inl ⟨⟨L, rfl⟩, rfl⟩)
  | rejectZero => exact .inr (.inr (.inl ⟨.inl rfl, rfl⟩))
  | rejectBig L => exact .inr (.inr (.inl ⟨.inr ⟨L, rfl⟩, rfl⟩))
  | complete => exact .inr (.inr (.inr ⟨.inl rfl, rfl⟩))
  | timeout => exact .inr (.inr (.inr ⟨.inr rfl, rfl⟩))
  | _ => exact absurd rfl hne

/-- Settles O28: a pulse cycle and a completion call the display, and no shape writes the environment's fields. -/
theorem displayCallers : Obligations.DisplayCallers := by
  intro i s s' h
  cases effect_of_exec h with
  | cycle _ k left hi =>
    refine ⟨rfl, rfl, rfl, rfl, fun hcycle hstall _ => ?_⟩
    rcases hi with rfl | ⟨x, rfl⟩
    · exact absurd rfl hcycle
    · exact absurd rfl (hstall x)
  | complete => exact ⟨rfl, rfl, rfl, rfl, fun _ _ hcomplete => absurd rfl hcomplete⟩
  | _ => exact ⟨rfl, rfl, rfl, rfl, fun _ _ _ => ⟨rfl, rfl⟩⟩

/-- Settles O29: each shape emits the line of its operation, or none. -/
theorem oneLineAtMost : Obligations.OneLineAtMost := by
  intro i s s' h
  cases effect_of_exec h with
  | pulse | pulseP => exact .inr ⟨.ok, rfl⟩
  | accept L => exact .inr ⟨.ready, rfl⟩
  | rejectZero | rejectBig L => exact .inr ⟨.errLen, rfl⟩
  | complete => exact .inr ⟨.done, rfl⟩
  | timeout => exact .inr ⟨.errTimeout, rfl⟩
  | status st => exact .inr ⟨st, rfl⟩
  | store | stall | idleWait | recvWait | cycle => exact .inl rfl

/-- Settles O30: each shape's queue is the one that the row of its instruction names. -/
theorem queueConsumedFromHead : Obligations.QueueConsumedFromHead := by
  intro i s s' h
  cases effect_of_exec h with
  | cycle _ k left hi => rcases hi with rfl | ⟨x, rfl⟩ <;> rfl
  | status st => cases st <;> rfl
  | _ => rfl

/-! ### Calls of the Display Surface -/

/-- A render call makes the calls of its body and those of the paged loop, none of them a blit. -/
theorem blit_mem_of_renderCalls {body : List DsCall} {k x y w h : Nat} {frame : List Byte} {fg : Color}
    (hm : .drawInvertedBitmap x y frame w h fg ∈ renderCalls body k) :
    .drawInvertedBitmap x y frame w h fg ∈ body := by
  simp only [renderCalls, List.mem_append, List.mem_flatten, List.mem_replicate] at hm
  rcases hm with ((hm | ⟨page, ⟨-, rfl⟩, hm⟩) | hm) | hm
  · simp at hm
  · simpa using hm
  · exact hm
  · simp at hm

/-- Settles O31: of the two operations that call the display, a pulse cycle draws fills only, and a completion draws the
range it has read, which its gate has found complete. -/
theorem blitOnlyOfCompleteFrame : Obligations.BlitOnlyOfCompleteFrame := by
  intro i s s' x y w h frame fg hx hm
  cases effect_of_exec hx with
  | cycle _ k left =>
    rw [setPulseToggle_dslog, setMoreAnswers_dslog, dsCalls_dslog, List.drop_left] at hm
    simpa using blit_mem_of_renderCalls hm
  | complete stored k left hf hr =>
    rw [setConn_dslog, clearCounters_dslog, emitStatus_dslog, setMoreAnswers_dslog, dsCalls_dslog, List.drop_left] at hm
    obtain rfl : frame = stored := by
      have hb := blit_mem_of_renderCalls hm
      simp only [frameBody, List.mem_cons, reduceCtorEq, DsCall.drawInvertedBitmap.injEq, List.not_mem_nil, or_false,
        false_or] at hb
      exact hb.2.2.1
    obtain ⟨hlen, hread⟩ := Memory.readRange_eq_some.1 hr
    exact ⟨rfl, hf, hlen, fun j hj => by simpa using hread j hj⟩
  | _ => simp at hm

end Sys2Proof.Machine

/-! PROOFS. The step (40_common_ops.md R110): the environment's moves before it, the operation that the queue selects
outside ReceivingFrame, and the logs. -/

namespace Sys2Proof.Machine

variable {s s' : State}

/-! ### The environment's moves -/

/-- What moves without a start-up do to a state: bytes come at the tail of the queue, time passes, the list shrinks. -/
def OnlyInput (s t : State) : Prop :=
  s.rxq <+: t.rxq ∧ t = { s with rxq := t.rxq, now := t.now, pending := t.pending }

theorem onlyInput_hostSend {t : State} (h : OnlyInput s t) (bytes : List Byte) : OnlyInput s (hostSend bytes t) := by
  obtain ⟨hq, ht⟩ := h
  exact ⟨hq.trans (List.prefix_append ..), by rw [ht]; rfl⟩

theorem onlyInput_applyMove {m : Move} (hm : m ≠ .powerOn) {t : State} (h : OnlyInput s t) :
    OnlyInput s (applyMove m t) := by
  cases m with
  | send bytes => exact onlyInput_hostSend h bytes
  | pulse => exact onlyInput_hostSend h hw.cmdToken
  | hdr n => exact onlyInput_hostSend h (beBytes n)
  | adv ms =>
    obtain ⟨hq, ht⟩ := h
    exact ⟨hq, by rw [ht]; rfl⟩
  | step => exact h
  | powerOn => exact absurd rfl hm

theorem onlyInput_deliver {moves : List Move} (hm : .powerOn ∉ moves) (s : State) : OnlyInput s (deliver moves s) := by
  refine deliver_keeps (P := OnlyInput s) (fun ms t h => ?_)
    (fun m hmem t h => onlyInput_applyMove (fun e => hm (e ▸ hmem)) h) ⟨List.prefix_rfl, rfl⟩
  obtain ⟨hq, ht⟩ := h
  exact ⟨hq, by rw [ht]; rfl⟩

/-- Settles O40: every move but the start-up keeps that only the queue's tail, the clock and the list have changed. -/
theorem environmentWritesNoRegister : Obligations.EnvironmentWritesNoRegister :=
  fun _ s hm => onlyInput_deliver hm s

/-- Each move but the invocation of the step is made and the delivery goes on. -/
theorem deliver_cons {m : Move} (hm : m ≠ .step) (ms : List Move) (s : State) :
    deliver (m :: ms) s = deliver ms (applyMove m s) := by
  cases m with
  | step => exact absurd rfl hm
  | _ => rfl

theorem deliver_pending_subset (moves : List Move) (s : State) : (deliver moves s).pending ⊆ moves := by
  induction moves generalizing s with
  | nil => exact List.Subset.refl []
  | cons m ms ih =>
    by_cases hm : m = .step
    · subst hm
      exact List.subset_cons_self ..
    · rw [deliver_cons hm]
      exact List.subset_cons_of_subset m (ih _)

/-! ### What a step of Idle or Pulsing runs -/

theorem select_of_decode {c : Conn} {q : List Byte} {i : Instr} (h : decode c q = .ok i) : select c q = i := by
  simp only [select, h]

/-- Where nothing decodes, the Connection State selects the operation: the wait in Idle, the pulse cycle in Pulsing. -/
theorem select_idle_of_error {q : List Byte} {p : Pending} (h : decode .idle q = .error p) :
    select .idle q = .idleWait := by
  simp only [select, h]

theorem select_pulsing_of_error {q : List Byte} {p : Pending} (h : decode .pulsing q = .error p) :
    select .pulsing q = .pulseCycle := by
  simp only [select, h]

/-- Settles O32: the step by its definition, the operation by what the decoder says. -/
theorem stepRunsDecodedInstruction : Obligations.StepRunsDecodedInstruction := by
  rintro s e rfl
  have hstep : step s = blockStep (deliver s.pending s) := rfl
  refine ⟨fun i hc hd => ?_, fun p hc hd => ?_, fun p hc hd => ?_, fun hc => ?_, fun d rest t => ?_, fun hp => ?_⟩
  · rw [hstep, blockStep_tokens hc, select_of_decode hd]
  · rw [hc] at hd
    rw [hstep, blockStep_tokens (by simp [hc]), hc, select_idle_of_error hd]
  · rw [hc] at hd
    rw [hstep, blockStep_tokens (by simp [hc]), hc, select_pulsing_of_error hd]
  · rw [hstep, blockStep_receiving hc]
  · refine ⟨rfl, fun hlt => ?_, fun hle => ?_⟩
    · rw [drain, if_pos (frameOpen_eq_true.2 hlt)]
    · rw [drain, if_neg (by rw [frameOpen_eq_true]; omega)]
  · rw [hp, deliver, setPending_nil hp]

/-- The head of a queue is a command token, a header, or no token. -/
theorem token_cases (s : State) :
    cmdMatch s.rxq = true ∨ (∃ L, hdrReady s.rxq = true ∧ headerLength s.rxq = some L) ∨ noToken s = true := by
  rcases decodeToken_cases .pulse s.rxq with ⟨hm, -⟩ | ⟨-, hh, L, hL, -⟩ | ⟨hm, hh, -⟩ | ⟨hm, hh, -⟩
  · exact .inl hm
  · exact .inr (.inl ⟨L, hh, hL⟩)
  · exact .inr (.inr (noToken_eq_true.2 ⟨hm, hh⟩))
  · exact .inr (.inr (noToken_eq_true.2 ⟨hm, hh⟩))

/-- A command token is consumed and acknowledged in Idle and in Pulsing, and both go on in Pulsing (R130, R140). -/
theorem blockStep_of_cmdMatch (hc : s.conn ≠ .receivingFrame) (hm : cmdMatch s.rxq = true) :
    blockStep s = .next { s with
      rxq := s.rxq.drop hw.cmdLen, txlog := s.txlog ++ statusLine .ok, conn := .pulsing } := by
  obtain ⟨rest, hq⟩ := cmdMatch_iff.1 hm
  have hd : s.rxq.drop hw.cmdLen = rest := by rw [hq]; rfl
  obtain ⟨cmd, ⟨hi, rfl⟩ | ⟨hp, rfl⟩, hdec⟩ := decode_tokens hc s.rxq
  · rw [blockStep_tokens hc, select_of_decode (hdec.trans ((decodeToken_eq_command_iff (.inl rfl)).2 hm)),
      pulseAcceptedInIdle s rest hi hq, hd]
  · rw [blockStep_tokens hc, select_of_decode (hdec.trans ((decodeToken_eq_command_iff (.inr rfl)).2 hm)),
      pulseRepeatedInPulsing s rest hp hq, hd, ← hp]

/-- Whatever its class, a header is interpreted (R112). -/
theorem blockStep_of_hdrReady {L : BitVec 32} (hc : s.conn ≠ .receivingFrame) (hh : hdrReady s.rxq = true)
    (hL : headerLength s.rxq = some L) : blockStep s = interpretHeader L s := by
  have hdec : decode s.conn s.rxq = .ok (headerInstr L) := by
    obtain ⟨b0, b1, b2, b3, rest, hq, hb⟩ := hdrReady_iff.1 hh
    rw [hq] at hL ⊢
    cases hL
    exact decode_header hc hb ..
  have hd : decodesTokens s = true := decodesTokens_iff.2 hc
  have hi : headerIs L s = true := by simp [headerIs, cmdMatch_of_hdrReady hh, hh, hL]
  rw [blockStep_tokens hc, select_of_decode hdec]
  rcases headerInstr_cases L with ⟨rfl, h⟩ | ⟨hv, h⟩ | ⟨hbig, h⟩ <;> rw [h]
  · exact whenSelected_true _ (by rw [hd, hi]; rfl)
  · exact whenSelected_true _ (by rw [hd, hi, hv]; rfl)
  · exact whenSelected_true _ (by rw [hd, hi, decide_eq_true hbig]; rfl)

theorem hdrLen_le_of_hdrReady {q : List Byte} (hh : hdrReady q = true) : hw.hdrLen ≤ q.length :=
  (hdrReady_iff_head.1 hh).1

theorem blockStep_of_validHeader {L : BitVec 32} (hc : s.conn ≠ .receivingFrame) (hh : hdrReady s.rxq = true)
    (hL : headerLength s.rxq = some L) (hv : lengthValid L = true) :
    blockStep s = .next (headerAccept L s.now (setRxq (s.rxq.drop hw.hdrLen) s)) := by
  rw [blockStep_of_hdrReady hc hh hL, interpretHeader_of_lengthValid (hdrLen_le_of_hdrReady hh) hv]

theorem blockStep_of_invalidHeader {L : BitVec 32} (hc : s.conn ≠ .receivingFrame) (hh : hdrReady s.rxq = true)
    (hL : headerLength s.rxq = some L) (hv : lengthValid L = false) :
    blockStep s = .next { s with
      rxq := [], txlog := s.txlog ++ statusLine .errLen, expectedLen := 0, receivedCnt := 0, conn := .idle } := by
  rw [blockStep_of_hdrReady hc hh hL, interpretHeader_of_not_lengthValid (hdrLen_le_of_hdrReady hh) hv]

/-- With no token the decoder reads a stalled head or nothing. -/
theorem decode_of_noToken (hc : s.conn ≠ .receivingFrame) (hn : noToken s = true) :
    (∃ x, stalled s.rxq = true ∧ stallTail s.rxq = some x ∧ decode s.conn s.rxq = .ok (.stallP x)) ∨
      ∃ p, decode s.conn s.rxq = .error p := by
  obtain ⟨hm, hh⟩ := noToken_eq_true.1 hn
  obtain ⟨cmd, -, hdec⟩ := decode_tokens hc s.rxq
  rw [hdec]
  rcases decodeToken_cases cmd s.rxq with ⟨hm', -⟩ | ⟨-, hh', -⟩ | ⟨-, -, hs, x, hx, hd⟩ | ⟨-, -, -, hd⟩
  · simp [hm] at hm'
  · simp [hh] at hh'
  · exact .inl ⟨x, hs, hx, hd⟩
  · exact .inr ⟨_, hd⟩

/-- With no token, Idle does nothing (R133). -/
theorem blockStep_of_idle_noToken (hc : s.conn = .idle) (hn : noToken s = true) : blockStep s = .next s := by
  have hne : s.conn ≠ .receivingFrame := by simp [hc]
  rw [blockStep_tokens hne]
  rcases decode_of_noToken hne hn with ⟨x, hs, hx, hd⟩ | ⟨p, hd⟩
  · rw [select_of_decode hd, execStallP_next_of_idle hc hs hx]
  · rw [hc] at hd ⊢
    rw [select_idle_of_error hd, execIdleWait_next hc hn]

/-- With no token, Pulsing draws a pulse cycle: `PULSE.CYCLE`, or `STALL.P` at a stalled head (R142). -/
theorem blockStep_of_pulsing_noToken (hc : s.conn = .pulsing) (hn : noToken s = true) :
    blockStep s = pulseCycle s := by
  have hne : s.conn ≠ .receivingFrame := by simp [hc]
  rw [blockStep_tokens hne]
  rcases decode_of_noToken hne hn with ⟨x, hs, hx, hd⟩ | ⟨p, hd⟩
  · rw [select_of_decode hd, execStallP_of_pulsing hc hs hx]
  · rw [hc] at hd ⊢
    rw [select_pulsing_of_error hd, execPulseCycle_eq hc hn]

/-! ### The logs -/

/-- Both logs are as they were or longer. -/
def LogsGrow (s t : State) : Prop := s.txlog <+: t.txlog ∧ s.dslog <+: t.dslog

theorem LogsGrow.trans {s t u : State} (h : LogsGrow s t) (h' : LogsGrow t u) : LogsGrow s u :=
  ⟨h.1.trans h'.1, h.2.trans h'.2⟩

theorem logsGrow_exec {i : Instr} (h : exec i s = .next s') : LogsGrow s s' := by
  constructor
  · rcases oneLineAtMost i s s' h with h | ⟨st, h⟩ <;> rw [h]
    exact List.prefix_append ..
  · cases effect_of_exec h with
    | cycle | complete => exact List.prefix_append ..
    | _ => exact List.prefix_rfl

theorem logsGrow_deliver (moves : List Move) (s : State) : LogsGrow s (deliver moves s) := by
  refine deliver_keeps (P := LogsGrow s) (fun _ _ h => h) (fun m _ t h => ?_) ⟨List.prefix_rfl, List.prefix_rfl⟩
  cases m <;> exact h

/-- Settles O39: the moves keep the logs, and every instruction, of a drain too, only appends to them. -/
theorem logsOnlyGrow : Obligations.LogsOnlyGrow := by
  intro s s' h
  have h0 : LogsGrow s (deliver s.pending s) := logsGrow_deliver s.pending s
  rcases step_cases h with ⟨-, hx⟩ | ⟨-, t, hd, hx⟩
  · exact h0.trans (logsGrow_exec hx)
  · have ht : LogsGrow s t :=
      drain_keeps (P := LogsGrow s) (fun _ _ _ h1 h2 => h1.trans (logsGrow_exec h2)) h0 hd
    exact ht.trans (logsGrow_exec hx)

end Sys2Proof.Machine

/-! PROOFS. The invariant of step boundaries (10_state.md R33): it holds at reset, and the environment's moves, the
operations outside ReceivingFrame, the drain and the closing operation keep it. -/

namespace Sys2Proof.Machine

variable {s s' : State}

/-! ### The parts of the invariant -/

theorem wholeLines_append {log : List Byte} (h : WholeLines log) (st : Status) : WholeLines (log ++ statusLine st) := by
  obtain ⟨ls, rfl⟩ := h
  exact ⟨ls ++ [st], by simp⟩

/-- An instruction emits whole lines only. -/
theorem wholeLines_exec {i : Instr} (hl : WholeLines s.txlog) (h : exec i s = .next s') : WholeLines s'.txlog := by
  rcases oneLineAtMost i s s' h with h | ⟨st, h⟩ <;> rw [h]
  · exact hl
  · exact wholeLines_append hl st

/-- The one store keeps the canonical form, and its index is below `C`. -/
theorem bufferBounded_exec {i : Instr} (hb : BufferBounded s) (h : exec i s = .next s') : BufferBounded s' := by
  cases effect_of_exec h with
  | store d =>
    obtain ⟨-, -, hi, -, -⟩ := execData_inv h
    obtain ⟨hwf, hlt⟩ := hb
    refine ⟨Memory.wf_write _ _ hwf, fun c hc => ?_⟩
    rcases Memory.mem_write hc with rfl | hc
    · exact hi
    · exact hlt c hc
  | _ => exact hb

/-- Outside ReceivingFrame nothing is said of the buffer's values. -/
theorem inv_of_outside (hc : s.conn ≠ .receivingFrame) (hn : s.expectedLen = 0 ∧ s.receivedCnt = 0)
    (hb : BufferBounded s) (hl : WholeLines s.txlog) : Inv s where
  idle _ := hn
  active h := absurd h hc
  bounded := hb
  stored h := absurd h hc
  lines := hl

/-! ### Reset and the environment -/

/-- Settles O41: the fields that a start-up writes, and those it leaves. -/
theorem resetLeaves : Obligations.ResetLeaves :=
  ⟨⟨rfl, rfl, rfl, fun _ => rfl, rfl, rfl⟩, fun _ => ⟨rfl, rfl, rfl, fun _ => rfl, rfl, rfl, rfl, rfl⟩⟩

/-- Settles O42: Idle with both counters 0, an empty buffer and an empty log. -/
theorem resetMeetsInvariant : Obligations.ResetMeetsInvariant :=
  inv_of_outside (by decide) ⟨rfl, rfl⟩ ⟨reset_fb_wf, by simp [State.reset]⟩ ⟨[], rfl⟩

theorem inv_applyMove (m : Move) (h : Inv s) : Inv (applyMove m s) := by
  cases m with
  | powerOn => exact inv_of_outside (by simp [applyMove]) ⟨rfl, rfl⟩ ⟨powerOn_fb_wf s, by simp [applyMove]⟩ h.lines
  | _ => exact ⟨h.idle, h.active, h.bounded, h.stored, h.lines⟩

theorem inv_deliver (moves : List Move) (h : Inv s) : Inv (deliver moves s) :=
  deliver_keeps (P := Inv) (fun _ _ h => ⟨h.idle, h.active, h.bounded, h.stored, h.lines⟩)
    (fun m _ _ h => inv_applyMove m h) h

/-! ### Outside ReceivingFrame -/

/-- A frame begins with a valid length and no byte received. -/
theorem inv_headerAccept {L : BitVec 32} (hv : lengthValid L = true) {t : Time} (hb : BufferBounded s)
    (hl : WholeLines s.txlog) : Inv (headerAccept L t s) where
  idle h := absurd rfl h
  active _ := by
    obtain ⟨h1, hle⟩ := lengthValid_eq_true.1 hv
    rw [headerAccept_expectedLen, headerAccept_receivedCnt, toNat_setWidth_valid hle]
    exact ⟨h1, hle, h1⟩
  bounded := hb
  stored _ k hk := absurd hk (Nat.not_lt_zero k)
  lines := wholeLines_append hl .ready

theorem inv_exec_outside {i : Instr} (hc : s.conn ≠ .receivingFrame) (hi : Inv s) (h : exec i s = .next s') :
    Inv s' := by
  have hn := hi.idle hc
  have hb := bufferBounded_exec hi.bounded h
  have hl := wholeLines_exec hi.lines h
  cases effect_of_exec h with
  | accept L =>
    obtain ⟨-, -, -, hv, -⟩ := execFrame_inv h
    exact inv_headerAccept hv hi.bounded hi.lines
  | store d => exact absurd (execData_inv h).1 hc
  | pulse | rejectZero | rejectBig L => exact inv_of_outside (by simp) (by simp [hn]) hb hl
  | complete | timeout => exact inv_of_outside (by simp) (by simp) hb hl
  | pulseP | cycle | status st | stall | idleWait | recvWait =>
    exact inv_of_outside (by simpa using hc) (by simpa using hn) hb hl

/-! ### Inside ReceivingFrame -/

/-- What holds between the bytes of a drain: as at a step boundary, but the frame may be complete. -/
structure Draining (s : State) : Prop where
  receiving : s.conn = .receivingFrame
  fits : s.expectedLen.toNat ≤ hw.capacity
  count : s.receivedCnt.toNat ≤ s.expectedLen.toNat
  bounded : BufferBounded s
  stored : ∀ k < s.receivedCnt.toNat, (Memory.read s.fb k).isSome = true
  lines : WholeLines s.txlog

theorem Inv.draining (h : Inv s) (hc : s.conn = .receivingFrame) : Draining s := by
  obtain ⟨-, hle, hlt⟩ := h.active hc
  exact ⟨hc, hle, hlt.le, h.bounded, h.stored hc, h.lines⟩

theorem draining_data {d : Byte} (hi : Draining s) (h : exec (.data d) s = .next s') : Draining s' := by
  have hb := bufferBounded_exec hi.bounded h
  have hl := wholeLines_exec hi.lines h
  obtain ⟨hc, hlt, -, -, rfl⟩ := execData_inv h
  have hcnt : (s.receivedCnt + 1).toNat = s.receivedCnt.toNat + 1 := toNat_add_one hlt
  refine ⟨hc, hi.fits, ?_, hb, fun k hk => ?_, hl⟩
  · rw [setActivityTs_receivedCnt, setReceivedCnt_receivedCnt, hcnt]
    exact hlt
  · rw [setActivityTs_receivedCnt, setReceivedCnt_receivedCnt, hcnt] at hk
    rw [setActivityTs_fb, setReceivedCnt_fb, setFb_fb]
    by_cases hk' : k = s.receivedCnt.toNat
    · rw [hk', Memory.read_write_same]
      rfl
    · rw [Memory.read_write_other _ _ _ _ hk']
      exact hi.stored k (by omega)

theorem draining_drain {q : List Byte} (hi : Draining s) (h : drain q s = .next s') : Draining s' :=
  drain_keeps (P := Draining) (fun _ _ _ => draining_data) hi h

/-- The three operations that close a step of ReceivingFrame, by what they find (R149). -/
theorem closing_cases (s : State) :
    (s.receivedCnt = s.expectedLen ∧ closing s = .frameComplete) ∨
    (s.receivedCnt ≠ s.expectedLen ∧ timedOut s = true ∧ closing s = .frameTimeout) ∨
    (s.receivedCnt ≠ s.expectedLen ∧ timedOut s = false ∧ closing s = .recvWait) := by
  by_cases hf : s.receivedCnt = s.expectedLen
  · exact .inl ⟨hf, by rw [closing, if_pos (frameFull_eq_true.2 hf)]⟩
  · have hnf : ¬frameFull s = true := fun h => hf (frameFull_eq_true.1 h)
    cases ht : timedOut s with
    | true => exact .inr (.inl ⟨hf, rfl, by rw [closing, if_neg hnf, if_pos ht]⟩)
    | false => exact .inr (.inr ⟨hf, rfl, by rw [closing, if_neg hnf, if_neg (by simp [ht])]⟩)

theorem inv_exec_closing (hi : Draining s) (h : exec (closing s) s = .next s') : Inv s' := by
  have hb := bufferBounded_exec hi.bounded h
  have hl := wholeLines_exec hi.lines h
  rcases closing_cases s with ⟨-, hx⟩ | ⟨-, -, hx⟩ | ⟨-, -, hx⟩ <;> rw [hx] at h
  · obtain ⟨-, -, frame, cs, left, -, -, rfl⟩ := execFrameComplete_inv h
    exact inv_of_outside (by simp) (by simp) hb hl
  · obtain ⟨-, -, -, rfl⟩ := execFrameTimeout_inv h
    exact inv_of_outside (by simp) (by simp) hb hl
  · obtain ⟨hc, hlt, -, rfl⟩ := execRecvWait_inv h
    exact ⟨fun hne => absurd hc hne, fun _ => ⟨by omega, hi.fits, hlt⟩, hb, fun _ => hi.stored, hl⟩

/-- Settles O43: the moves keep the invariant, then one operation does, or the drain does but for completeness and the
closing operation restores it. -/
theorem stepKeepsInvariant : Obligations.StepKeepsInvariant := by
  intro s s' hi h
  have h0 : Inv (deliver s.pending s) := inv_deliver s.pending hi
  rcases step_cases h with ⟨hc, hx⟩ | ⟨hc, t, hd, hx⟩
  · exact inv_exec_outside hc h0 hx
  · exact inv_exec_closing (draining_drain (h0.draining hc) hd) hx

/-! ### The stall -/

theorem stalled_append {q : List Byte} (h : stalled q = true) (rest : List Byte) : stalled (q ++ rest) = true := by
  obtain ⟨x0, x1, x2, x3, tail, rfl, hne⟩ := stalled_iff.1 h
  exact stalled_iff.2 ⟨x0, x1, x2, x3, tail ++ rest, rfl, hne⟩

theorem noToken_of_stalled (h : stalled s.rxq = true) : noToken s = true :=
  noToken_eq_true.2 ⟨cmdMatch_of_stalled h, hdrReady_of_stalled h⟩

/-- What a block with a stalled head keeps of a state: the queue up to what has come since, and all that it writes but
its toggle and its calls of the display. -/
structure KeepsStall (s t : State) : Prop where
  noStartUp : .powerOn ∉ t.pending
  queue : s.rxq <+: t.rxq
  txlog : t.txlog = s.txlog
  conn : t.conn = s.conn
  fb : t.fb = s.fb

theorem keepsStall_deliver {t : State} (h : KeepsStall s t) : KeepsStall s (deliver t.pending t) := by
  obtain ⟨hq, ht⟩ := onlyInput_deliver h.noStartUp t
  refine ⟨fun hm => h.noStartUp (deliver_pending_subset _ _ hm), h.queue.trans hq, ?_, ?_, ?_⟩ <;> rw [ht]
  · exact h.txlog
  · exact h.conn
  · exact h.fb

theorem keepsStall_step (hc : s.conn ≠ .receivingFrame) (hs : stalled s.rxq = true) {t t' : State}
    (h : KeepsStall s t) (hstep : step t = .next t') : KeepsStall s t' := by
  have he : KeepsStall s (deliver t.pending t) := keepsStall_deliver h
  replace hstep : blockStep (deliver t.pending t) = .next t' := hstep
  generalize deliver t.pending t = e at he hstep
  have hn : noToken e = true := by
    obtain ⟨rest, hq⟩ := he.queue
    exact noToken_of_stalled (hq ▸ stalled_append hs rest)
  cases hce : e.conn with
  | idle =>
    rw [blockStep_of_idle_noToken hce hn] at hstep
    cases hstep
    exact he
  | pulsing =>
    rw [blockStep_of_pulsing_noToken hce hn] at hstep
    obtain ⟨cs, left, -, rfl⟩ := pulseCycle_eq_next hstep
    exact ⟨he.noStartUp, he.queue, he.txlog, he.conn, he.fb⟩
  | receivingFrame => exact absurd (he.conn ▸ hce) hc

/-- Settles O45: by induction on the steps, the stalled head staying the beginning of the queue. -/
theorem stallIsForGood : Obligations.StallIsForGood := by
  intro n s s' hp hc hs h
  have hk : KeepsStall s s' :=
    run_keeps (P := KeepsStall s) (fun _ _ => keepsStall_step hc hs) ⟨hp, List.prefix_rfl, rfl, rfl, rfl⟩ h
  exact ⟨hk.queue, hk.txlog, hk.conn, hk.fb⟩

end Sys2Proof.Machine

/-! PROOFS. The step of ReceivingFrame (43_receiving.md sections 1 and 2): the drain as one update of the state, then what
follows it. -/

namespace Sys2Proof.Machine

variable {s s' : State}

/-! ### Consecutive bytes of the Frame Buffer -/

/-- The memory with bytes written at consecutive indices from `i` on. -/
def Memory.writeList (m : Memory) (i : Nat) (bs : List Byte) : Memory :=
  match bs with
  | [] => m
  | b :: rest => Memory.writeList (Memory.write m i b) (i + 1) rest

theorem Memory.read_writeList_other {m : Memory} {i a : Nat} {bs : List Byte} (h : a < i ∨ i + bs.length ≤ a) :
    Memory.read (Memory.writeList m i bs) a = Memory.read m a := by
  induction bs generalizing m i with
  | nil => rfl
  | cons b rest ih =>
    rw [List.length_cons] at h
    rw [Memory.writeList, ih (by omega), Memory.read_write_other _ _ _ _ (by omega)]

theorem Memory.read_writeList {m : Memory} {i k : Nat} {bs : List Byte} (h : k < bs.length) :
    Memory.read (Memory.writeList m i bs) (i + k) = bs[k]? := by
  induction bs generalizing m i k with
  | nil => cases h
  | cons b rest ih =>
    rw [Memory.writeList]
    cases k with
    | zero => rw [Memory.read_writeList_other (by omega), Nat.add_zero, Memory.read_write_same]; rfl
    | succ k =>
      rw [show i + (k + 1) = i + 1 + k by omega, ih (by simpa using h)]
      rfl

/-- What is stored and what is written right after it read as one range. -/
theorem Memory.readRange_writeList {m : Memory} {stored bs : List Byte}
    (h : ∀ i (hi : i < stored.length), Memory.read m i = some stored[i]) :
    Memory.readRange (Memory.writeList m stored.length bs) 0 (stored ++ bs).length = some (stored ++ bs) := by
  refine Memory.readRange_eq_some.2 ⟨rfl, fun k hk => ?_⟩
  rw [Nat.zero_add, ← List.getElem?_eq_getElem hk]
  by_cases hlt : k < stored.length
  · rw [Memory.read_writeList_other (.inl hlt), h k hlt, List.getElem?_append_left hlt, List.getElem?_eq_getElem hlt]
  · obtain ⟨j, rfl⟩ := Nat.exists_eq_add_of_le (not_lt.1 hlt)
    rw [List.length_append] at hk
    rw [Memory.read_writeList (by omega), List.getElem?_append_right (by omega), Nat.add_sub_cancel_left]

/-! ### The drain -/

/-- The state after a drain: the bytes taken stand at consecutive indices from `received_cnt` on (R150). -/
def drained (s : State) : State :=
  { s with
    rxq := s.rxq.drop (drainCount s)
    receivedCnt := s.receivedCnt + BitVec.ofNat hw.lenW (drainCount s)
    fb := Memory.writeList s.fb s.receivedCnt.toNat (s.rxq.take (drainCount s))
    activityTs := if drainCount s = 0 then s.activityTs else s.now }

theorem drained_of_drainCount_zero (h : drainCount s = 0) : drained s = s := by
  have h0 : s.receivedCnt + BitVec.ofNat hw.lenW 0 = s.receivedCnt := BitVec.add_zero _
  rw [drained, h, List.drop_zero, List.take_zero, Memory.writeList, if_pos rfl, h0]

/-- One byte stored, then the rest of a drain. -/
theorem drained_afterData {d : Byte} {rest : List Byte} (hq : s.rxq = d :: rest)
    (hlt : s.receivedCnt.toNat < s.expectedLen.toNat) : drained (afterData d s) = drained s := by
  have hcnt : (s.receivedCnt + 1).toNat = s.receivedCnt.toNat + 1 := toNat_add_one hlt
  have hn : drainCount s = drainCount (afterData d s) + 1 := by
    simp only [drainCount, rxAvail, remaining, afterData, hcnt, hq, List.drop_one, List.tail_cons, List.length_cons]
    omega
  rw [drained, drained, hn]
  generalize drainCount (afterData d s) = n
  have hadd : s.receivedCnt + 1 + BitVec.ofNat hw.lenW n = s.receivedCnt + BitVec.ofNat hw.lenW (n + 1) := by
    rw [BitVec.ofNat_add, BitVec.add_assoc, BitVec.add_comm 1]
    rfl
  simp only [afterData, hq, hcnt, hadd, Memory.writeList, List.drop_zero, List.take_succ_cons,
    List.drop_succ_cons, ite_self, if_neg (Nat.succ_ne_zero n)]

theorem drain_eq (hc : s.conn = .receivingFrame) (hcnt : s.receivedCnt.toNat ≤ s.expectedLen.toNat)
    (hle : s.expectedLen.toNat ≤ hw.capacity) : drain s.rxq s = .next (drained s) := by
  generalize hq : s.rxq = q
  induction q generalizing s with
  | nil => rw [drain, drained_of_drainCount_zero (by simp [drainCount, rxAvail, hq])]
  | cons d rest ih =>
    by_cases hlt : s.receivedCnt.toNat < s.expectedLen.toNat
    · have hcnt' : (afterData d s).receivedCnt.toNat ≤ (afterData d s).expectedLen.toNat := by
        rw [afterData, toNat_add_one hlt]
        exact hlt
      have hq' : (afterData d s).rxq = rest := by rw [afterData, hq]; rfl
      rw [drain, if_pos (frameOpen_eq_true.2 hlt), execData_next hc hlt (hlt.trans_le hle) (by rw [hq]; rfl),
        andThen_next, ih (s := afterData d s) hc hcnt' hle hq', drained_afterData hq hlt]
    · rw [drain, if_neg (by rwa [frameOpen_eq_true]),
        drained_of_drainCount_zero (by rw [drainCount, remaining]; omega)]

/-- Counting bytes that the frame still lacks does not wrap (R120). -/
theorem drained_receivedCnt (hcnt : s.receivedCnt.toNat ≤ s.expectedLen.toNat) :
    (drained s).receivedCnt.toNat = s.receivedCnt.toNat + drainCount s := by
  have hn : drainCount s ≤ s.expectedLen.toNat - s.receivedCnt.toNat := min_le_right _ _
  have hlt := s.expectedLen.isLt
  rw [drained, BitVec.toNat_add, BitVec.toNat_ofNat, Nat.add_mod_mod]
  exact Nat.mod_eq_of_lt (by omega)

theorem read_drained {k : Nat} (hk : k < drainCount s) :
    Memory.read (drained s).fb (s.receivedCnt.toNat + k) = s.rxq[k]? := by
  have hle : drainCount s ≤ s.rxq.length := min_le_left _ _
  rw [drained, Memory.read_writeList (by rw [List.length_take]; omega), List.getElem?_take_of_lt hk]

theorem read_drained_other {a : Nat} (ha : a < s.receivedCnt.toNat ∨ s.receivedCnt.toNat + drainCount s ≤ a) :
    Memory.read (drained s).fb a = Memory.read s.fb a := by
  have hle : drainCount s ≤ s.rxq.length := min_le_left _ _
  rw [drained, Memory.read_writeList_other (by rw [List.length_take]; omega)]

/-- Settles O33: the drain's update, read index by index. -/
theorem drainStoresPayload : Obligations.DrainStoresPayload :=
  fun _ hc hcnt hle =>
    ⟨_, drain_eq hc hcnt hle, rfl, drained_receivedCnt hcnt, fun _ hk => read_drained hk,
      fun _ ha => read_drained_other ha⟩

/-! ### What follows the drain -/

theorem blockStep_drained (hc : s.conn = .receivingFrame) (hcnt : s.receivedCnt.toNat ≤ s.expectedLen.toNat)
    (hle : s.expectedLen.toNat ≤ hw.capacity) : blockStep s = exec (closing (drained s)) (drained s) := by
  rw [blockStep_receiving hc, drain_eq hc hcnt hle, andThen_next]

/-- The frame is complete after the drain exactly if the queue held the bytes it lacked. -/
theorem drained_full_iff (hcnt : s.receivedCnt.toNat ≤ s.expectedLen.toNat) :
    (drained s).receivedCnt = (drained s).expectedLen ↔ remaining s ≤ s.rxq.length := by
  have he : (drained s).expectedLen = s.expectedLen := rfl
  rw [BitVec.toNat_eq, drained_receivedCnt hcnt, he, drainCount, rxAvail, remaining]
  omega

/-- A drain that took a byte has no timeout after it; one that took none changes no time stamp (R150). -/
theorem timedOut_drained :
    timedOut (drained s) = true ↔ drainCount s = 0 ∧ hw.payloadTimeoutMs < (s.now - s.activityTs).toNat := by
  rw [timedOut_eq_true]
  by_cases h0 : drainCount s = 0
  · rw [drained_of_drainCount_zero h0, and_iff_right h0]
  · have hz : (drained s).now - (drained s).activityTs = 0 := by
      rw [drained, if_neg h0]
      exact BitVec.sub_self _
    rw [hz]
    simp [h0]

/-- The step that finds the bytes the frame lacks (R151): the whole frame is rendered. -/
theorem blockStep_of_enough {stored : List Byte} {k : Nat} {left : List Bool} (hc : s.conn = .receivingFrame)
    (hcnt : s.receivedCnt.toNat ≤ s.expectedLen.toNat) (hle : s.expectedLen.toNat ≤ hw.capacity)
    (hlen : stored.length = s.receivedCnt.toNat)
    (hread : ∀ i (h : i < stored.length), Memory.read s.fb i = some stored[i])
    (hrem : remaining s ≤ s.rxq.length) (hp : Pages k left s) :
    blockStep s = .next { drained s with
      conn := .idle
      expectedLen := 0
      receivedCnt := 0
      txlog := s.txlog ++ statusLine .done
      dslog := s.dslog ++ renderCalls (frameBody (stored ++ s.rxq.take (remaining s))) k
      moreAnswers := left } := by
  have hn : drainCount s = remaining s := min_eq_right hrem
  have hfull : (drained s).receivedCnt = (drained s).expectedLen := (drained_full_iff hcnt).2 hrem
  have hrange : Memory.readRange (drained s).fb 0 (drained s).expectedLen.toNat =
      some (stored ++ s.rxq.take (remaining s)) := by
    have hl : (stored ++ s.rxq.take (remaining s)).length = s.expectedLen.toNat := by
      rw [List.length_append, List.length_take, hlen, min_eq_left hrem, remaining]
      omega
    have hr := Memory.readRange_writeList (bs := s.rxq.take (remaining s)) hread
    rw [hl, hlen] at hr
    rw [drained, hn]
    exact hr
  have hx : closing (drained s) = .frameComplete := by rw [closing, if_pos (frameFull_eq_true.2 hfull)]
  have hp' : Pages k left (drained s) := hp
  rw [blockStep_drained hc hcnt hle, hx, execFrameComplete_eq (s := drained s) hc hfull hrange,
    render_of_pages hp']
  rfl

/-- The step that finds some bytes but too few stores them and waits (R153). -/
theorem blockStep_of_tooFew (hc : s.conn = .receivingFrame) (hle : s.expectedLen.toNat ≤ hw.capacity)
    (h1 : 1 ≤ s.rxq.length) (hlt : s.rxq.length < remaining s) : blockStep s = .next (drained s) := by
  have hcnt : s.receivedCnt.toNat ≤ s.expectedLen.toNat := by rw [remaining] at hlt; omega
  have hn : drainCount s = s.rxq.length := min_eq_left hlt.le
  have hopen : frameOpen (drained s) = true := by
    have he : (drained s).expectedLen = s.expectedLen := rfl
    rw [frameOpen_eq_true, drained_receivedCnt hcnt, hn, he]
    rw [remaining] at hlt
    omega
  have ht : timedOut (drained s) = false := by
    rw [← Bool.not_eq_true, timedOut_drained]
    omega
  rw [blockStep_drained hc hcnt hle, closing_eq_recvWait hopen ht, execRecvWait_next (s := drained s) hc hopen ht]

/-- Settles O34: the drain completes the frame, and the bytes stored before and drained now are the range it reads. -/
theorem lastByteCompletesFrame : Obligations.LastByteCompletesFrame := by
  intro s stored k left hpend hc hlt hle hlen hread hrem hp
  refine ⟨_, (step_of_no_pending hpend).trans (blockStep_of_enough hc hlt.le hle hlen hread hrem hp), ?_⟩
  have hn : drainCount s = remaining s := min_eq_right hrem
  have h0 : remaining s ≠ 0 := by rw [remaining]; omega
  rw [drained, hn, if_neg h0]

/-- Settles O35: the drain takes the whole queue, and its last byte's time stamp is the step's. -/
theorem lateByteRescuesTransfer : Obligations.LateByteRescuesTransfer := by
  intro s hpend hc hle h1 hlt
  have hcnt : s.receivedCnt.toNat ≤ s.expectedLen.toNat := by rw [remaining] at hlt; omega
  have hn : drainCount s = s.rxq.length := min_eq_left hlt.le
  refine ⟨_, (step_of_no_pending hpend).trans (blockStep_of_tooFew hc hle h1 hlt), ?_, ?_, fun k hk => ?_, fun a ha => ?_⟩
  · rw [drained, hn, List.drop_length, if_neg (by omega)]
  · rw [drained_receivedCnt hcnt, hn]
  · exact read_drained (by rwa [hn])
  · exact read_drained_other (by rwa [hn])

end Sys2Proof.Machine

/-! PROOFS. The transitions of a step (40_common_ops.md R122), what can stop one (60_exceptions.md R166), and what a step
does not look at (30_encoding.md R83). -/

namespace Sys2Proof.Machine

variable {s s' : State}

/-! ### A header in Pulsing -/

/-- Settles O36: in both states the header is interpreted, and what it leaves does not depend on which it was. -/
theorem headerInterruptsPulse : Obligations.HeaderInterruptsPulse := by
  intro s b0 b1 b2 b3 rest hpend hc hq hb
  have hne : s.conn ≠ .receivingFrame := by simp [hc]
  have hne' : ({ s with conn := .idle } : State).conn ≠ .receivingFrame := nofun
  have hh : hdrReady s.rxq = true := hdrReady_iff.2 ⟨b0, b1, b2, b3, rest, hq, hb⟩
  have hL : headerLength s.rxq = some (be32 b0 b1 b2 b3) := by rw [hq]; rfl
  have hdrop : s.rxq.drop hw.hdrLen = rest := by rw [hq]; rfl
  rw [step_of_no_pending hpend, step_of_no_pending (s := { s with conn := .idle }) hpend]
  cases hv : lengthValid (be32 b0 b1 b2 b3) with
  | true =>
    rw [blockStep_of_validHeader hne hh hL hv, blockStep_of_validHeader hne' hh hL hv]
    exact ⟨rfl, _, rfl, rfl, rfl, .inl ⟨rfl, rfl, hdrop, rfl⟩⟩
  | false =>
    rw [blockStep_of_invalidHeader hne hh hL hv, blockStep_of_invalidHeader hne' hh hL hv]
    exact ⟨rfl, _, rfl, rfl, rfl, .inr ⟨rfl, rfl, rfl, rfl⟩⟩

/-! ### The transition table -/

/-- A header's length is valid exactly if it is found so by its two bounds. -/
theorem exists_validLength_iff {L : BitVec 32} (hL : headerLength s.rxq = some L) :
    (∃ L, headerLength s.rxq = some L ∧ 1 ≤ L.toNat ∧ L.toNat ≤ hw.capacity) ↔ lengthValid L = true := by
  rw [lengthValid_eq_true]
  constructor
  · rintro ⟨L', hL', hb⟩
    rw [hL] at hL'
    cases hL'
    exact hb
  · exact fun hb => ⟨L, hL, hb⟩

theorem conn_of_blockStep_cmdMatch (hc : s.conn ≠ .receivingFrame) (hm : cmdMatch s.rxq = true)
    (h : blockStep s = .next s') : s'.conn = .pulsing := by
  rw [blockStep_of_cmdMatch hc hm] at h
  cases h
  rfl

theorem conn_of_blockStep_header {L : BitVec 32} (hc : s.conn ≠ .receivingFrame) (hh : hdrReady s.rxq = true)
    (hL : headerLength s.rxq = some L) (h : blockStep s = .next s') :
    s'.conn = if lengthValid L then .receivingFrame else .idle := by
  cases hv : lengthValid L with
  | true =>
    rw [blockStep_of_validHeader hc hh hL hv] at h
    cases h
    rfl
  | false =>
    rw [blockStep_of_invalidHeader hc hh hL hv] at h
    cases h
    rfl

/-- With no token the Connection State stays. -/
theorem conn_of_blockStep_noToken (hc : s.conn ≠ .receivingFrame) (hn : noToken s = true)
    (h : blockStep s = .next s') : s'.conn = s.conn := by
  cases hcs : s.conn with
  | idle =>
    rw [blockStep_of_idle_noToken hcs hn] at h
    cases h
    exact hcs
  | pulsing =>
    rw [blockStep_of_pulsing_noToken hcs hn] at h
    obtain ⟨cs, left, -, rfl⟩ := pulseCycle_eq_next h
    exact hcs
  | receivingFrame => exact absurd hcs hc

theorem conn_of_exec_closing (hc : s.conn = .receivingFrame) (h : exec (closing s) s = .next s') :
    s'.conn = if s.receivedCnt = s.expectedLen ∨ timedOut s = true then .idle else .receivingFrame := by
  rcases closing_cases s with ⟨hf, hx⟩ | ⟨-, ht, hx⟩ | ⟨hf, ht, hx⟩ <;> rw [hx] at h
  · obtain ⟨-, -, frame, cs, left, -, -, rfl⟩ := execFrameComplete_inv h
    rw [if_pos (.inl hf)]
    rfl
  · obtain ⟨-, -, -, rfl⟩ := execFrameTimeout_inv h
    rw [if_pos (.inr ht)]
    rfl
  · obtain ⟨-, -, -, rfl⟩ := execRecvWait_inv h
    rw [if_neg (by simp [hf, ht]), hc]

theorem conn_of_blockStep_receiving (hi : Inv s) (hc : s.conn = .receivingFrame) (h : blockStep s = .next s') :
    s'.conn =
      if s.expectedLen.toNat - s.receivedCnt.toNat ≤ s.rxq.length then .idle
      else if s.rxq = [] ∧ hw.payloadTimeoutMs < (s.now - s.activityTs).toNat then .idle
      else .receivingFrame := by
  obtain ⟨-, hle, hlt⟩ := hi.active hc
  rw [blockStep_drained hc hlt.le hle] at h
  have h0 : drainCount s = 0 ↔ s.rxq = [] := by
    rw [drainCount, remaining, rxAvail, ← List.length_eq_zero_iff]
    omega
  rw [conn_of_exec_closing (s := drained s) hc h]
  simp only [drained_full_iff hlt.le, timedOut_drained, h0, ite_or]
  rfl

/-- Settles O37: the head of the queue decides outside ReceivingFrame, the drain inside. -/
theorem transitionsAsTabled : Obligations.TransitionsAsTabled := by
  intro s s' hpend hi h
  rw [step_of_no_pending hpend] at h
  by_cases hc : s.conn = .receivingFrame
  · simp only [conn_of_blockStep_receiving hi hc h, hc]
  · rcases token_cases s with hm | ⟨L, hh, hL⟩ | hn
    · rw [conn_of_blockStep_cmdMatch hc hm h]
      cases hcs : s.conn with
      | receivingFrame => exact absurd hcs hc
      | idle | pulsing => simp only [hm, if_true]
    · rw [conn_of_blockStep_header hc hh hL h]
      cases hcs : s.conn with
      | receivingFrame => exact absurd hcs hc
      | idle | pulsing =>
        simp only [cmdMatch_of_hdrReady hh, hh, exists_validLength_iff hL, Bool.false_eq_true, if_false, if_true]
    · obtain ⟨hm, hh⟩ := noToken_eq_true.1 hn
      rw [conn_of_blockStep_noToken hc hn h]
      cases hcs : s.conn with
      | receivingFrame => exact absurd hcs hc
      | idle | pulsing => simp [hm, hh]

/-! ### What can stop a step -/

/-- The block's outcome is a next state, or the hang of a render call that never ends. -/
def AnswersOrHangs (s : State) (o : Out) : Prop :=
  (∃ s', o = .next s') ∨ (o = .fault .renderHang ∧ ¬RenderEnds s)

theorem answersOrHangs_next (s s' : State) : AnswersOrHangs s (.next s') := .inl ⟨s', rfl⟩

/-- A render call and then something that always answers. -/
theorem answersOrHangs_render (body : List DsCall) (k : State → State) (s : State) :
    AnswersOrHangs s (andThen (render body s) fun t => .next (k t)) := by
  cases h : render body s with
  | next t => exact .inl ⟨k t, rfl⟩
  | fault r =>
    obtain ⟨rfl, hn⟩ := render_eq_fault h
    exact .inr ⟨rfl, hn⟩
  | refused r =>
    unfold render at h
    split at h <;> cases h

theorem answersOrHangs_outside (hc : s.conn ≠ .receivingFrame) : AnswersOrHangs s (blockStep s) := by
  rcases token_cases s with hm | ⟨L, hh, hL⟩ | hn
  · rw [blockStep_of_cmdMatch hc hm]
    exact answersOrHangs_next ..
  · cases hv : lengthValid L with
    | true =>
      rw [blockStep_of_validHeader hc hh hL hv]
      exact answersOrHangs_next ..
    | false =>
      rw [blockStep_of_invalidHeader hc hh hL hv]
      exact answersOrHangs_next ..
  · cases hcs : s.conn with
    | idle =>
      rw [blockStep_of_idle_noToken hcs hn]
      exact answersOrHangs_next ..
    | pulsing =>
      rw [blockStep_of_pulsing_noToken hcs hn]
      exact answersOrHangs_render _ flipToggle s
    | receivingFrame => exact absurd hcs hc

theorem answersOrHangs_closing (hi : Draining s) : AnswersOrHangs s (exec (closing s) s) := by
  have hopen (hf : s.receivedCnt ≠ s.expectedLen) : frameOpen s = true :=
    frameOpen_eq_true.2 (lt_of_le_of_ne hi.count fun e => hf (BitVec.eq_of_toNat_eq e))
  rcases closing_cases s with ⟨hf, hx⟩ | ⟨hf, ht, hx⟩ | ⟨hf, ht, hx⟩ <;> rw [hx]
  · obtain ⟨frame, hr⟩ := Memory.readRange_isSome (i := 0) fun k hk => by
      rw [Nat.zero_add]
      exact hi.stored k hk
    rw [execFrameComplete_eq hi.receiving hf (hf ▸ hr)]
    exact answersOrHangs_render _ (fun t => setConn .idle (clearCounters (emitStatus .done t))) s
  · rw [execFrameTimeout_next hi.receiving (hopen hf) ht]
    exact answersOrHangs_next ..
  · rw [execRecvWait_next hi.receiving (hopen hf) ht]
    exact answersOrHangs_next ..

theorem answersOrHangs_receiving (hi : Draining s) : AnswersOrHangs s (blockStep s) := by
  have hd : drain s.rxq s = .next (drained s) := drain_eq hi.receiving hi.count hi.fits
  rw [blockStep_drained hi.receiving hi.count hi.fits]
  exact answersOrHangs_closing (draining_drain hi hd)

/-- No move of the environment changes the display's answers, a start-up neither. -/
theorem renderEnds_deliver (moves : List Move) (s : State) : RenderEnds (deliver moves s) ↔ RenderEnds s := by
  refine deliver_keeps (P := fun t => RenderEnds t ↔ RenderEnds s) (fun _ _ h => h) (fun m _ t h => ?_) Iff.rfl
  cases m <;> exact h

/-- Settles O44: after the moves the invariant still holds, and from it the block answers or hangs. -/
theorem onlyEndlessRenderStops : Obligations.OnlyEndlessRenderStops := by
  intro s hi
  have he : Inv (deliver s.pending s) := inv_deliver s.pending hi
  have ho : AnswersOrHangs (deliver s.pending s) (step s) := by
    by_cases hc : (deliver s.pending s).conn = .receivingFrame
    · exact answersOrHangs_receiving (he.draining hc)
    · exact answersOrHangs_outside hc
  rw [AnswersOrHangs, renderEnds_deliver] at ho
  rcases ho with ⟨s', h⟩ | ⟨h, hn⟩ <;> rw [h]
  · exact ⟨fun _ => ⟨s', rfl⟩, nofun, nofun⟩
  · refine ⟨fun hr => absurd hr hn, fun r hr => ?_, nofun⟩
    cases hr
    exact ⟨rfl, hn⟩

/-! ### Payload values -/

/-- Two states that differ in nothing but the values of their queues' bytes, the buffer and the calls made. -/
structure SameControl (a b : State) : Prop where
  others : b = { a with rxq := b.rxq, fb := b.fb, dslog := b.dslog }
  length : a.rxq.length = b.rxq.length

theorem sameControl_data {a b a' b' : State} {d d' : Byte} (h : SameControl a b) (ha : exec (.data d) a = .next a')
    (hb : exec (.data d') b = .next b') : SameControl a' b' := by
  obtain ⟨-, -, -, -, rfl⟩ := execData_inv ha
  obtain ⟨-, -, -, -, rfl⟩ := execData_inv hb
  obtain ⟨ho, hl⟩ := h
  refine ⟨?_, by simp [hl]⟩
  rw [ho]
  rfl

theorem sameControl_drain {a b a' b' : State} {p q : List Byte} (hpq : p.length = q.length) (h : SameControl a b)
    (ha : drain p a = .next a') (hb : drain q b = .next b') : SameControl a' b' := by
  induction p generalizing a b q with
  | nil =>
    obtain rfl : q = [] := List.eq_nil_of_length_eq_zero hpq.symm
    cases ha
    cases hb
    exact h
  | cons d p ih =>
    cases q with
    | nil => cases hpq
    | cons d' q =>
      have hopen : frameOpen b = frameOpen a := by rw [h.others]; rfl
      rw [drain] at ha hb
      rw [hopen] at hb
      split at ha
      · next ho =>
        rw [if_pos ho] at hb
        obtain ⟨a1, ha1, ha⟩ := andThen_eq_next ha
        obtain ⟨b1, hb1, hb⟩ := andThen_eq_next hb
        exact ih (Nat.succ.inj hpq) (sameControl_data h ha1 hb1) ha hb
      · next ho =>
        rw [if_neg ho] at hb
        cases ha
        cases hb
        exact h

/-- How many answers a paged loop takes does not depend on what its pages draw. -/
theorem pageLoop_left {body body' : List DsCall} {rest : Bool} {answers left left' : List Bool} {cs cs' : List DsCall}
    (h : pageLoop body rest answers = some (cs, left)) (h' : pageLoop body' rest answers = some (cs', left')) :
    left = left' := by
  induction answers generalizing cs cs' with
  | nil =>
    cases rest with
    | true => cases h
    | false =>
      cases h
      cases h'
      rfl
  | cons a as ih =>
    cases a with
    | false =>
      cases h
      cases h'
      rfl
    | true =>
      simp only [pageLoop, if_true] at h h'
      split at h
      · cases h
      · next hp =>
        split at h'
        · cases h'
        · next hp' =>
          cases h
          cases h'
          exact ih hp hp'

theorem sameControl_closing {a b a' b' : State} (h : SameControl a b) (ha : exec (closing a) a = .next a')
    (hb : exec (closing b) b = .next b') : SameControl a' b' := by
  have hcl : closing b = closing a := by rw [h.others]; rfl
  rw [hcl] at hb
  obtain ⟨ho, hl⟩ := h
  rcases closing_cases a with ⟨-, hx⟩ | ⟨-, -, hx⟩ | ⟨-, -, hx⟩ <;> rw [hx] at ha hb
  · obtain ⟨-, -, frame, cs, left, -, hpa, rfl⟩ := execFrameComplete_inv ha
    obtain ⟨-, -, frame', cs', left', -, hpb, rfl⟩ := execFrameComplete_inv hb
    have hr : b.moreRest = a.moreRest := by rw [ho]
    have hm : b.moreAnswers = a.moreAnswers := by rw [ho]
    rw [hr, hm] at hpb
    obtain rfl := pageLoop_left hpa hpb
    refine ⟨?_, hl⟩
    rw [ho]
    rfl
  · obtain ⟨-, -, -, rfl⟩ := execFrameTimeout_inv ha
    obtain ⟨-, -, -, rfl⟩ := execFrameTimeout_inv hb
    refine ⟨?_, rfl⟩
    rw [ho]
    rfl
  · obtain ⟨-, -, -, rfl⟩ := execRecvWait_inv ha
    obtain ⟨-, -, -, rfl⟩ := execRecvWait_inv hb
    exact ⟨ho, hl⟩

/-- Settles O38: the drain and the closing operation keep that two states differ in nothing but payload values. -/
theorem payloadValuesIgnored : Obligations.PayloadValuesIgnored := by
  intro s a b q hpend hc hlen ha hb
  rw [step_of_no_pending hpend, blockStep_receiving hc] at ha
  rw [step_of_no_pending (s := { s with rxq := q }) hpend, blockStep_receiving (s := { s with rxq := q }) hc] at hb
  obtain ⟨ta, hda, ha⟩ := andThen_eq_next ha
  obtain ⟨tb, hdb, hb⟩ := andThen_eq_next hb
  have h0 : SameControl s { s with rxq := q } := ⟨rfl, hlen.symm⟩
  obtain ⟨ho, hl⟩ := sameControl_closing (sameControl_drain hlen.symm h0 hda hdb) ha hb
  rw [ho]
  exact ⟨rfl, rfl, rfl, rfl, rfl, rfl, rfl, hl⟩

/-! ### Quiescence -/

/-- A token outside ReceivingFrame is consumed. -/
theorem blockStep_consumes (hc : s.conn ≠ .receivingFrame) (hn : noToken s ≠ true) :
    ∃ s', blockStep s = .next s' ∧ s'.rxq.length < s.rxq.length := by
  rcases token_cases s with hm | ⟨L, hh, hL⟩ | hn'
  · refine ⟨_, blockStep_of_cmdMatch hc hm, ?_⟩
    have hlen := (cmdMatch_iff_take.1 hm).1
    simp at hlen ⊢
    omega
  · have hlen := hdrLen_le_of_hdrReady hh
    cases hv : lengthValid L with
    | true =>
      refine ⟨_, blockStep_of_validHeader hc hh hL hv, ?_⟩
      simp at hlen ⊢
      omega
    | false =>
      refine ⟨_, blockStep_of_invalidHeader hc hh hL hv, ?_⟩
      simp at hlen ⊢
      omega
  · exact absurd hn' hn

/-- Outside ReceivingFrame only a waiting Idle is left as it is: a token is consumed, a pulse cycle flips the toggle. -/
theorem quiescent_of_blockStep_fixed (hc : s.conn ≠ .receivingFrame) (h : blockStep s = .next s) : Quiescent s := by
  have hn : noToken s = true := by
    by_contra hn
    obtain ⟨s', hs', hlt⟩ := blockStep_consumes hc hn
    rw [h] at hs'
    cases hs'
    exact lt_irrefl _ hlt
  refine ⟨?_, hn⟩
  cases hcs : s.conn with
  | idle => rfl
  | pulsing =>
    rw [blockStep_of_pulsing_noToken hcs hn] at h
    obtain ⟨cs, left, -, hs⟩ := pulseCycle_eq_next h
    have ht := congrArg State.pulseToggle hs
    simp at ht
  | receivingFrame => exact absurd hcs hc

/-- The invariant does not speak of the time. -/
theorem inv_setNow (hi : Inv s) (t : Time) : Inv { s with now := t } :=
  ⟨hi.idle, hi.active, hi.bounded, hi.stored, hi.lines⟩

/-- Inside ReceivingFrame no step late enough leaves the state as it is: it times out, or it takes a byte. -/
theorem step_late_ne (hi : Inv s) (hpend : s.pending = []) (hc : s.conn = .receivingFrame) {t : Time}
    (ht : hw.payloadTimeoutMs < (t - s.activityTs).toNat) : step { s with now := t } ≠ .next { s with now := t } := by
  intro h
  have hb := (step_of_no_pending (s := { s with now := t }) hpend).symm.trans h
  have hstay := conn_of_blockStep_receiving (inv_setNow hi t) hc hb
  by_cases hrem : s.expectedLen.toNat - s.receivedCnt.toNat ≤ s.rxq.length
  · rw [if_pos hrem, hc] at hstay
    cases hstay
  · have hq : s.rxq ≠ [] := by
      intro hq
      rw [if_neg hrem, if_pos ⟨hq, ht⟩, hc] at hstay
      cases hstay
    obtain ⟨-, hle, -⟩ := hi.active hc
    obtain ⟨u, hu, hfields, -⟩ := lateByteRescuesTransfer { s with now := t } hpend hc hle
      (List.length_pos_iff.2 hq) (not_le.1 hrem)
    rw [h] at hu
    cases hu
    exact hq (congrArg State.rxq hfields)

theorem exists_late (a : Time) : ∃ t : Time, hw.payloadTimeoutMs < (t - a).toNat := by
  refine ⟨BitVec.ofNat hw.timeW (hw.payloadTimeoutMs + 1) + a, ?_⟩
  rw [BitVec.add_sub_cancel]
  decide

/-- Settles O46: a quiescent step is the wait of Idle; of the others none is fixed at every time. -/
theorem quiescentExactly : Obligations.QuiescentExactly := by
  intro s hi hpend
  constructor
  · rintro ⟨hc, hn⟩ t
    exact step_of_idle_noToken (s := { s with now := t }) hc hn hpend
  · intro h
    have hc : s.conn ≠ .receivingFrame := fun hc => by
      obtain ⟨t, ht⟩ := exists_late s.activityTs
      exact step_late_ne hi hpend hc ht (h t)
    have h0 : step s = .next s := h s.now
    rw [step_of_no_pending hpend] at h0
    exact quiescent_of_blockStep_fixed hc h0

end Sys2Proof.Machine

/-! PROOFS. Whole runs (95_test_vectors.md sections 1 and 2): the colours of a pulse, two equal frames, a frame in pieces. -/

namespace Sys2Proof.Machine

variable {s s' : State}

theorem run_one_next (h : step s = .next s') : Host.Core.run Sys2Proof.core 1 s = .next s' :=
  run_succ_next h

/-- A run whose first m steps answered a next state goes on from there. -/
theorem run_add_next {m : Nat} (h : Host.Core.run Sys2Proof.core m s = .next s') (n : Nat) :
    Host.Core.run Sys2Proof.core (m + n) s = Host.Core.run Sys2Proof.core n s' := by
  induction m generalizing s with
  | zero =>
    cases h
    rw [Nat.zero_add]
  | succ m ih =>
    rw [run_succ] at h
    obtain ⟨s1, h1, h2⟩ := andThen_eq_next h
    rw [Nat.succ_add]
    exact (run_succ_next h1).trans (ih h2)

/-! ### The colours of a pulse -/

/-- The toggle after n pulse cycles. -/
def toggleAfter (n : Nat) (p : Bool) : Bool := xor p (decide (n % 2 = 1))

theorem toggleAfter_succ (n : Nat) (p : Bool) : toggleAfter (n + 1) p = !toggleAfter n p := by
  have h : decide ((n + 1) % 2 = 1) = !decide (n % 2 = 1) := by
    rw [← decide_not, decide_eq_decide]
    omega
  rw [toggleAfter, toggleAfter, h, Bool.xor_not]

/-- The state after n steps of an undisturbed pulse. -/
def pulsed (n : Nat) (s : State) : State :=
  { s with
    pulseToggle := toggleAfter n s.pulseToggle
    dslog := s.dslog ++ (List.range n).flatMap fun j =>
      renderCalls [.fill (Config.pulseColor (toggleAfter j s.pulseToggle))] 0 }

theorem pulsed_zero (s : State) : pulsed 0 s = s := by
  simp [pulsed, toggleAfter]

theorem step_pulsed (hc : s.conn = .pulsing) (hq : s.rxq = []) (hpend : s.pending = []) (ha : s.moreAnswers = [])
    (hr : s.moreRest = false) (n : Nat) : step (pulsed n s) = .next (pulsed (n + 1) s) := by
  have hn : noToken (pulsed n s) = true := noToken_of_waitForm (.inl hq)
  have hp : Pages 0 [] (pulsed n s) := pages_of_onePage ha hr
  rw [step_of_no_pending (s := pulsed n s) hpend, blockStep_of_pulsing_noToken (s := pulsed n s) hc hn,
    pulseCycle_of_pages hp]
  simp [pulsed, toggleAfter_succ, List.range_succ, ha]

/-- Settles O49: by induction on the steps, each of which flips the toggle after drawing with it. -/
theorem pulseColoursAlternate : Obligations.PulseColoursAlternate := by
  intro n s hc hq hpend ha hr
  show Host.Core.run Sys2Proof.core n s = .next (pulsed n s)
  induction n with
  | zero => rw [pulsed_zero, run_zero]
  | succ n ih => exact (run_add_next ih 1).trans (run_one_next (step_pulsed hc hq hpend ha hr n))

/-! ### A frame on a one-page display -/

/-- Inside a frame of which `got` has come, on a one-page display. -/
structure Collecting (got : List Byte) (s : State) : Prop where
  conn : s.conn = .receivingFrame
  answers : s.moreAnswers = []
  moreRest : s.moreRest = false
  fits : s.expectedLen.toNat ≤ hw.capacity
  count : got.length = s.receivedCnt.toNat
  stored : ∀ i (h : i < got.length), Memory.read s.fb i = some got[i]

/-- The step of a valid header at the head of the queue. -/
theorem blockStep_of_beBytes {L : BitVec 32} {rest : List Byte} (hc : s.conn ≠ .receivingFrame)
    (hv : lengthValid L = true) (hq : s.rxq = beBytes L ++ rest) :
    blockStep s = .next (headerAccept L s.now (setRxq rest s)) := by
  have hh : hdrReady s.rxq = true := hq ▸ hdrReady_beBytes (topByte_valid hv) rest
  have hL : headerLength s.rxq = some L := hq ▸ headerLength_beBytes L rest
  rw [blockStep_of_validHeader hc hh hL hv, hq, drop_hdrLen_beBytes]

theorem toNat_expectedLen_headerAccept {L : BitVec 32} (hv : lengthValid L = true) (t : Time) (s : State) :
    (headerAccept L t s).expectedLen.toNat = L.toNat :=
  toNat_setWidth_valid (lengthValid_eq_true.1 hv).2

theorem collecting_headerAccept {L : BitVec 32} (hv : lengthValid L = true) (t : Time) (ha : s.moreAnswers = [])
    (hr : s.moreRest = false) : Collecting [] (headerAccept L t s) where
  conn := rfl
  answers := ha
  moreRest := hr
  fits := by
    rw [toNat_expectedLen_headerAccept hv]
    exact (lengthValid_eq_true.1 hv).2
  count := rfl
  stored := nofun

/-- What the last byte of a frame leaves, `rest` having come after it. -/
structure FrameDone (frame rest : List Byte) (s t : State) : Prop where
  conn : t.conn = .idle
  expectedLen : t.expectedLen = 0
  receivedCnt : t.receivedCnt = 0
  queue : t.rxq = rest
  pending : t.pending = []
  answers : t.moreAnswers = []
  moreRest : t.moreRest = false
  toggle : t.pulseToggle = s.pulseToggle
  txlog : t.txlog = s.txlog ++ statusLine .done
  dslog : t.dslog = s.dslog ++ renderCalls (frameBody frame) 0

theorem blockStep_of_lastBytes {got p rest : List Byte} (hs : Collecting got s) (hpend : s.pending = [])
    (hq : s.rxq = p ++ rest) (hlen : got.length + p.length = s.expectedLen.toNat) :
    ∃ t, blockStep s = .next t ∧ FrameDone (got ++ p) rest s t := by
  have hcnt := hs.count
  have hrem : remaining s = p.length := by rw [remaining]; omega
  have hle : remaining s ≤ s.rxq.length := by rw [hrem, hq, List.length_append]; omega
  have hb := blockStep_of_enough hs.conn (by omega) hs.fits hcnt hs.stored hle (pages_of_onePage hs.answers hs.moreRest)
  have hn : drainCount s = p.length := (min_eq_right hle).trans hrem
  have hqueue : (drained s).rxq = rest := by rw [drained, hn, hq, List.drop_left]
  rw [hrem, hq, List.take_left] at hb
  exact ⟨_, hb, rfl, rfl, rfl, hqueue, hpend, rfl, hs.moreRest, rfl, rfl, rfl⟩

/-! ### Two equal frames -/

/-- A header in Idle, its payload and what follows it: two steps. -/
theorem run_two_of_frame {L : BitVec 32} {payload rest : List Byte} (hv : lengthValid L = true)
    (hlen : payload.length = L.toNat) (hc : s.conn = .idle) (hpend : s.pending = []) (ha : s.moreAnswers = [])
    (hr : s.moreRest = false) (hq : s.rxq = beBytes L ++ (payload ++ rest)) :
    ∃ t : State, Host.Core.run Sys2Proof.core 2 s = .next t ∧
      FrameDone payload rest (headerAccept L s.now (setRxq (payload ++ rest) s)) t := by
  have h1 : step s = .next (headerAccept L s.now (setRxq (payload ++ rest) s)) := by
    rw [step_of_no_pending hpend, blockStep_of_beBytes (by simp [hc]) hv hq]
  obtain ⟨t, ht, hdone⟩ := blockStep_of_lastBytes
    (collecting_headerAccept (s := setRxq (payload ++ rest) s) hv s.now ha hr) hpend rfl
    (by rw [toNat_expectedLen_headerAccept hv, ← hlen]; exact Nat.zero_add _)
  rw [← step_of_no_pending (by exact hpend)] at ht
  exact ⟨t, (run_succ_next h1).trans (run_one_next ht), hdone⟩

/-- Settles O48: twice the two steps of a frame. -/
theorem sameFrameTwiceSameBlit : Obligations.SameFrameTwiceSameBlit := by
  intro s L payload hc hpend ha hr h1 hle hlen hq
  have hv : lengthValid L = true := lengthValid_eq_true.2 ⟨h1, hle⟩
  obtain ⟨t, ht, hdt⟩ := run_two_of_frame hv hlen hc hpend ha hr (by rw [hq, List.append_assoc])
  obtain ⟨u, hu, hdu⟩ := run_two_of_frame (rest := []) hv hlen hdt.conn hdt.pending hdt.answers hdt.moreRest
    (by rw [hdt.queue, List.append_nil])
  refine ⟨u, (run_add_next ht 2).trans hu, hdu.conn, hdu.queue, ?_, ?_⟩
  · simp [hdu.txlog, hdt.txlog]
  · simp [hdu.dslog, hdt.dslog]

/-! ### A frame in pieces -/

/-- What arrives does not change what the block has collected. -/
theorem collecting_arrival {got : List Byte} (hs : Collecting got s) (p : List Byte) (ms : List Move) :
    Collecting got (setPending ms (setRxq p s)) :=
  ⟨hs.conn, hs.answers, hs.moreRest, hs.fits, hs.count, hs.stored⟩

/-- A queue that the frame still has room for is collected whole. -/
theorem collecting_drained {got : List Byte} (hs : Collecting got s)
    (hle : got.length + s.rxq.length ≤ s.expectedLen.toNat) :
    Collecting (got ++ s.rxq) (drained s) ∧ (drained s).rxq = [] := by
  have hcnt := hs.count
  have hn : drainCount s = s.rxq.length := min_eq_left (by rw [remaining, rxAvail]; omega)
  have hfb : (drained s).fb = Memory.writeList s.fb got.length s.rxq := by rw [drained, hn, List.take_length, hcnt]
  have hreads := (Memory.readRange_eq_some.1 (Memory.readRange_writeList (bs := s.rxq) hs.stored)).2
  refine ⟨⟨hs.conn, hs.answers, hs.moreRest, hs.fits, ?_, fun i hi => ?_⟩, ?_⟩
  · rw [drained_receivedCnt (by omega), hn, List.length_append, hcnt]
  · rw [hfb, ← hreads i hi, Nat.zero_add]
  · rw [drained, hn, List.drop_length]

/-- A piece arrives and the step is invoked. -/
theorem step_of_piece {p : List Byte} {ms : List Move} (hp : s.pending = .send p :: .step :: ms) (hq : s.rxq = []) :
    step s = blockStep (setPending ms (setRxq p s)) := by
  rw [step, envStep, hp, deliver_cons (by simp), deliver, applyMove, hostSend, hq, List.nil_append]

/-- A piece that does not complete the frame is stored after those before it. -/
theorem step_of_earlier_piece {got p : List Byte} {ms : List Move} (hs : Collecting got s) (hq : s.rxq = [])
    (hp : s.pending = .send p :: .step :: ms) (hne : p ≠ []) (hlt : got.length + p.length < s.expectedLen.toNat) :
    ∃ t, step s = .next t ∧ Collecting (got ++ p) t ∧ t.rxq = [] ∧ t.pending = ms ∧ t.expectedLen = s.expectedLen ∧
      t.pulseToggle = s.pulseToggle ∧ t.txlog = s.txlog ∧ t.dslog = s.dslog := by
  have hs' := collecting_arrival hs p ms
  have hrem : p.length < s.expectedLen.toNat - s.receivedCnt.toNat := by
    rw [← hs.count]
    omega
  obtain ⟨hc, hq'⟩ := collecting_drained hs' hlt.le
  exact ⟨_, (step_of_piece hp hq).trans (blockStep_of_tooFew hs'.conn hs'.fits (List.length_pos_iff.2 hne) hrem),
    hc, hq', rfl, rfl, rfl, rfl, rfl⟩

/-- The piece that completes the frame. -/
theorem step_of_last_piece {got p : List Byte} (hs : Collecting got s) (hq : s.rxq = [])
    (hp : s.pending = [.send p, .step]) (hlen : got.length + p.length = s.expectedLen.toNat) :
    ∃ t, step s = .next t ∧ FrameDone (got ++ p) [] s t := by
  obtain ⟨t, ht, hdone⟩ :=
    blockStep_of_lastBytes (collecting_arrival hs p []) rfl (List.append_nil p).symm hlen
  exact ⟨t, (step_of_piece hp hq).trans ht, hdone.conn, hdone.expectedLen, hdone.receivedCnt, hdone.queue,
    hdone.pending, hdone.answers, hdone.moreRest, hdone.toggle, hdone.txlog, hdone.dslog⟩

/-- The moves that send a frame in pieces, a step after each. -/
def pieceMoves (pieces : List (List Byte)) : List Move := pieces.flatMap fun p => [.send p, .step]

theorem flatten_length_pos {pieces : List (List Byte)} (hne : ∀ p ∈ pieces, p ≠ []) (hnil : pieces ≠ []) :
    0 < pieces.flatten.length := by
  obtain ⟨p, hp⟩ := List.exists_mem_of_ne_nil pieces hnil
  exact List.length_pos_iff.2 fun h0 => hne p hp (List.flatten_eq_nil_iff.1 h0 p hp)

theorem run_pieces {pieces : List (List Byte)} {got : List Byte} (hs : Collecting got s) (hq : s.rxq = [])
    (hne : ∀ p ∈ pieces, p ≠ []) (hnil : pieces ≠ [])
    (hlen : got.length + pieces.flatten.length = s.expectedLen.toNat) (hp : s.pending = pieceMoves pieces) :
    ∃ t : State, Host.Core.run Sys2Proof.core pieces.length s = .next t ∧ FrameDone (got ++ pieces.flatten) [] s t := by
  induction pieces generalizing got s with
  | nil => exact absurd rfl hnil
  | cons p rest ih =>
    by_cases hrest : rest = []
    · subst hrest
      rw [List.flatten_singleton] at hlen ⊢
      obtain ⟨t, ht, hdone⟩ := step_of_last_piece hs hq hp hlen
      exact ⟨t, run_one_next ht, hdone⟩
    · have hne' : ∀ q ∈ rest, q ≠ [] := fun q hq => hne q (List.mem_cons_of_mem p hq)
      have hpos := flatten_length_pos hne' hrest
      rw [List.flatten_cons] at hlen ⊢
      rw [List.length_append] at hlen
      obtain ⟨t, ht, hct, hqt, hpt, het, htt, htx, htd⟩ :=
        step_of_earlier_piece hs hq hp (hne p (List.mem_cons_self ..)) (by omega)
      obtain ⟨u, hu, hdone⟩ := ih hct hqt hne' hrest (by rw [List.length_append, het]; omega) hpt
      rw [List.append_assoc] at hdone
      exact ⟨u, (run_succ_next ht).trans hu, hdone.conn, hdone.expectedLen, hdone.receivedCnt, hdone.queue,
        hdone.pending, hdone.answers, hdone.moreRest, hdone.toggle.trans htt, htx ▸ hdone.txlog, htd ▸ hdone.dslog⟩

/-- Settles O47: the header's step, then by induction on the pieces. -/
theorem frameInAnyPieces : Obligations.FrameInAnyPieces := by
  intro s L pieces hc ha hr h1 hle hq hne hlen hpend
  have hv : lengthValid L = true := lengthValid_eq_true.2 ⟨h1, hle⟩
  have hstep : step s = .next (headerAccept L s.now (setRxq [] (setPending (pieceMoves pieces) s))) := by
    rw [step, envStep, hpend, deliver]
    exact blockStep_of_beBytes (s := setPending (pieceMoves pieces) s) hc hv (hq.trans (List.append_nil _).symm)
  have hnil : pieces ≠ [] := by
    rintro rfl
    rw [← hlen] at h1
    cases h1
  obtain ⟨t, ht, hdone⟩ := run_pieces
    (collecting_headerAccept (s := setRxq [] (setPending (pieceMoves pieces) s)) hv s.now ha hr) rfl hne hnil
    (by rw [toNat_expectedLen_headerAccept hv, ← hlen]; exact Nat.zero_add _) rfl
  exact ⟨t, (run_succ_next hstep).trans ht, hdone.conn, hdone.expectedLen, hdone.receivedCnt, hdone.queue,
    hdone.pending, hdone.toggle, hdone.txlog, hdone.dslog⟩

/-! ### Arithmetic and the Display Surface's read -/

/-- Settles O50: the difference is the offset itself, below the clock's modulus. -/
theorem elapsedAcrossWrap : Obligations.ElapsedAcrossWrap := by
  intro t d hd
  rw [elapsed, BitVec.add_comm, BitVec.add_sub_cancel, BitVec.toNat_ofNat, Nat.mod_eq_of_lt hd]

/-- Settles O51: the call is a blit and the index is in its bitmap; the frame's byte is read where there is one. -/
theorem surfaceReadsPayload : Obligations.SurfaceReadsPayload := by
  intro s k x y w h i frame fg hk hi
  have hread : surfaceRead s k i = some (frame[i]?.getD (Config.staleByte k i)) := by
    have hi' : i < rowStride w * h := hi
    simp only [surfaceRead, hk, hi', if_true]
    cases frame[i]? <;> rfl
  refine ⟨fun hlt => ?_, by rw [hread]; rfl⟩
  rw [hread, List.getElem?_eq_getElem hlt, Option.getD_some]

end Sys2Proof.Machine
